-- ==== Sys2Proof/Word.lean ====
section
/-! DEFINITION. The widths of the B85 block: bytes, 32-bit register words, window offsets (spec 00_scope.md R9, R10;
20_memory.md R61). -/

namespace Sys2Proof

/-- A byte: 8 bits (R10). -/
abbrev Byte := BitVec 8

/-- A register or a command word: 32 bits (R9, R20, R85). -/
abbrev Word := BitVec 32

/-- A byte offset in the host's window of 2^25 bytes (R61; log 10). -/
abbrev Offset := BitVec 25

end Sys2Proof
end

