-- ==== Sys2Proof/Config.lean ====
section
/-! DEFINITION. The implementation parameters (spec 00_scope.md R5 to R8) and the free values
(93_implementation_defined.md U12 to U14). -/

namespace Sys2Proof

/-- The parameters of one instance of the block. They never change while it runs (10_state.md R25). -/
structure Params where
  /-- HAS_BITS: the bit-to-ASCII commands exist (R5). -/
  hasBits : Bool
  /-- log2 of LANES, so LANES is 1, 2, 4 or 8 (R6). -/
  lanesLog2 : Fin 4
  /-- FILT_BLOCK (R7). -/
  filtBlock : Nat
  /-- log2 of BUF_BYTES (R8, R25). -/
  bufLog2 : Nat
  deriving DecidableEq, Repr

/-- BUF_BYTES (R8). -/
def Params.bufBytes (p : Params) : Nat := 2 ^ p.bufLog2

/-- LANES (R6). -/
def Params.lanes (p : Params) : Nat := 2 ^ p.lanesLog2.val

/-- The parameter values the spec allows: BUF_BYTES a power of two from 2^8 to 2^24 (R8), FILT_BLOCK positive (R7). -/
def Params.wf (p : Params) : Bool := decide (8 ≤ p.bufLog2 ∧ p.bufLog2 ≤ 24 ∧ 0 < p.filtBlock)

/-- The spec's default values: HAS_BITS = 1 (R5), LANES = 8 (R6), FILT_BLOCK = 1 (R7), BUF_BYTES = 65536 (R8). -/
def Params.default : Params := { hasBits := true, lanesLog2 := 3, filtBlock := 1, bufLog2 := 16 }

/-- The n-th free byte: an unwritten BUF byte, or a BUF byte read by the host while busy (U12, U13, U14; log 4). -/
opaque Config.freeByte : Nat → Byte

/-- The n-th free word: a register the host reads while busy, where R77 leaves the value unspecified (U14; log 4). -/
opaque Config.freeWord : Nat → Word

end Sys2Proof
end

