-- ==== Sys2Proof/Syntax.lean ====
section
/-! DEFINITION. The commands: one constructor per row of spec/opcode_table.json, which is the opcode map of
spec 30_encoding.md R90. No command carries an operand (R89). -/

namespace Sys2Proof

inductive Instr where
  /-- NOP, no operation (44_stream_support.md R183). -/
  | nop
  /-- TENC, register tuple encode (40_tuple_codec.md R109). -/
  | tenc
  /-- TENCZ, register tuple encode with the shorthand (R110). -/
  | tencz
  /-- TDEC, register tuple decode (R111). -/
  | tdec
  /-- ENC, buffer encode (41_buffer_codec.md R122). -/
  | enc
  /-- ENCZ, buffer encode with the shorthand (R123). -/
  | encz
  /-- DEC, buffer decode (R125). -/
  | dec
  /-- DECZ, buffer decode accepting the shorthand (R126). -/
  | decz
  /-- BENC, register byte to 8 ASCII bits (42_bit_ascii.md R148). -/
  | benc
  /-- BDEC, register 8 ASCII bits to byte (R149). -/
  | bdec
  /-- BENCB, buffer bytes to ASCII bits (R150). -/
  | bencb
  /-- BDECB, buffer ASCII bits to bytes (R151). -/
  | bdecb
  /-- FILT85, in-place radix-85 filter (43_filter.md R167). -/
  | filt85
  /-- FILT85Z, in-place radix-85 filter keeping 'z' (R168). -/
  | filt85z
  /-- FILTBIN, in-place binary-ASCII filter (R169). -/
  | filtbin
  /-- WRAP, column-wrapping copy (44_stream_support.md R181). -/
  | wrap
  deriving DecidableEq, Repr

/-- Every command, in the order of the opcode map (R90). -/
def Instr.all : List Instr :=
  [.nop, .tenc, .tencz, .tdec, .enc, .encz, .dec, .decz, .benc, .bdec, .bencb, .bdecb, .filt85, .filt85z, .filtbin, .wrap]

end Sys2Proof
end

