-- ==== Sys2Proof/WellFormed.lean ====
section
/-! DEFINITION. When a command exists on an instance of the block: the bit-to-ASCII commands only with HAS_BITS = 1
(spec 00_scope.md R5, 30_encoding.md R90). Commands have no operands, so this is the only check on one. -/

namespace Sys2Proof

/-- The commands of the optional bit-to-ASCII group (R5). -/
def Instr.needsBits : Instr → Bool
  | .benc | .bdec | .bencb | .bdecb => true
  | .nop | .tenc | .tencz | .tdec | .enc | .encz | .dec | .decz | .filt85 | .filt85z | .filtbin | .wrap => false

/-- The command exists with these parameters (R5). -/
def Instr.wf (p : Params) (i : Instr) : Bool := !i.needsBits || p.hasBits

end Sys2Proof
end

