-- ==== Sys2Proof/Decode.lean ====
section
/-! DEFINITION. The command decoder (spec 30_encoding.md R85 to R94), total on every 32-bit word, and the encoder
(R90). -/

namespace Sys2Proof

/-- Why a word is illegal: the four causes of R93 and 60_exceptions.md R199, in the order R91 tests them. -/
inductive Illegal where
  /-- Some RSV bit is set (R88). -/
  | reservedBits
  /-- OP is 0x0C to 0xFF (R86). -/
  | unassignedOp
  /-- Z = 1 with an OP that has no 'z' variant (R87). -/
  | noShorthandVariant
  /-- A bit-transform OP with HAS_BITS = 0 (R90). -/
  | bitsAbsent
  deriving DecidableEq, Repr

/-- OP, bits 7:0 (R85). -/
def opField (w : Word) : BitVec 8 := w.extractLsb' 0 8

/-- Z, bit 8 (R85). -/
def zField (w : Word) : Bool := w.getLsbD 8

/-- RSV, bits 31:9 (R85). -/
def rsvField (w : Word) : BitVec 23 := w.extractLsb' 9 23

/-- The row of R90 with this OP and Z. Z = 1 only with OP 0x01, 0x03, 0x04 and 0x09 (R87). -/
def decodeOp (op : Nat) (z : Bool) : Except Illegal Instr :=
  match op, z with
  | 0x00, false => .ok .nop
  | 0x01, false => .ok .tenc
  | 0x01, true  => .ok .tencz
  | 0x02, false => .ok .tdec
  | 0x03, false => .ok .enc
  | 0x03, true  => .ok .encz
  | 0x04, false => .ok .dec
  | 0x04, true  => .ok .decz
  | 0x05, false => .ok .benc
  | 0x06, false => .ok .bdec
  | 0x07, false => .ok .bencb
  | 0x08, false => .ok .bdecb
  | 0x09, false => .ok .filt85
  | 0x09, true  => .ok .filt85z
  | 0x0A, false => .ok .filtbin
  | 0x0B, false => .ok .wrap
  | op,   _     => if op < 0x0C then .error .noShorthandVariant else .error .unassignedOp

/-- The decoder (R91): the tests in R91's order, the first that fails naming the rejection. -/
def decode (p : Params) (w : Word) : Except Illegal Instr :=
  if rsvField w ≠ 0 then .error .reservedBits
  else
    match decodeOp (opField w).toNat (zField w) with
    | .error e => .error e
    | .ok i => if i.wf p then .ok i else .error .bitsAbsent

/-- A command word from its fields OP and Z, with RSV = 0 (R85, R88). -/
def commandWord (op : BitVec 8) (z : Bool) : Word := (0#23 ++ BitVec.ofBool z) ++ op

/-- The word of a command: the OP and Z columns of R90. -/
def encode : Instr → Word
  | .nop     => commandWord 0x00 false
  | .tenc    => commandWord 0x01 false
  | .tencz   => commandWord 0x01 true
  | .tdec    => commandWord 0x02 false
  | .enc     => commandWord 0x03 false
  | .encz    => commandWord 0x03 true
  | .dec     => commandWord 0x04 false
  | .decz    => commandWord 0x04 true
  | .benc    => commandWord 0x05 false
  | .bdec    => commandWord 0x06 false
  | .bencb   => commandWord 0x07 false
  | .bdecb   => commandWord 0x08 false
  | .filt85  => commandWord 0x09 false
  | .filt85z => commandWord 0x09 true
  | .filtbin => commandWord 0x0A false
  | .wrap    => commandWord 0x0B false

/-- What the decoder reads from the word `w` of `nbits` bits as spec/opcode_table.json numbers them, on an instance with
the default parameters (log 3). A command is one 32-bit word (R85, R95); a longer one is none. -/
def decodeTableWord (nbits w : Nat) : Option Instr :=
  let v := w % 2 ^ nbits
  if v < 2 ^ 32 then (decode Params.default (BitVec.ofNat 32 v)).toOption else none

end Sys2Proof
end

