-- ==== Sys2Proof/Machine/State.lean ====
section
/-! DEFINITION. The state of the block (spec 10_state.md), what its surroundings are about to do to it (20_memory.md R75,
30_encoding.md R97 to R99), and the state after power-on reset (10_state.md R40). -/

namespace Sys2Proof.Machine

/-- The 16 registers of the register map (R20, R22). -/
inductive RegName where
  | ID | CAP | CTRL | STATUS | CMD | SRC | DST | LEN | DATA | X0 | X1 | WRAP | COL | OLEN | AUX | ERRINFO
  deriving DecidableEq, Repr

/-- STATUS.ERR: the error codes that are produced (60_exceptions.md R198). -/
inductive ErrCode where
  /-- 0: success. -/
  | none
  /-- 1: the command word selects no operation (R199). -/
  | illegal
  /-- 2: the source or destination range is outside BUF (R200). -/
  | bounds
  /-- 3: the source and destination ranges overlap (R201). -/
  | overlap
  /-- 4: a 'z' inside a group (R202). -/
  | zpos
  /-- 5: WRAP > 0 and COL >= WRAP (R203). -/
  | param
  deriving DecidableEq, Repr

/-- CTRL (R26): IE is its only stored bit; SRST and the reserved bits read 0 (log 11). -/
structure Ctrl where
  ie : Bool
  deriving DecidableEq, Repr

/-- STATUS (R27): its fields; the reserved bits are RAZ/WI and have no storage (log 11). -/
structure Status where
  busy : Bool
  done : Bool
  ovr : Bool
  err : ErrCode
  deriving DecidableEq, Repr

/-- BUF (R37, 20_memory.md R60): the bytes that have been written, addresses strictly rising. An address that is not
listed holds no value yet: its byte is unspecified (R40, 70_reset_and_hazards.md R226; log 5). -/
abbrev Memory := List Host.Cell

/-- One host bus access at a window offset: the transactions of 30_encoding.md R99 (`r8`, `w8`, `r32`, `w32`) and the
16-bit ones, which are malformed everywhere (20_memory.md R68, R69). -/
inductive Access where
  | r8 (o : Offset)
  | r16 (o : Offset)
  | r32 (o : Offset)
  | w8 (o : Offset) (v : Byte)
  | w16 (o : Offset) (v : BitVec 16)
  | w32 (o : Offset) (v : Word)
  deriving DecidableEq, Repr

/-- What the host's program does next: a bus access, or the loop `wait` of R98. -/
inductive HostAction where
  | access (a : Access)
  | wait
  deriving DecidableEq, Repr

/-- A value the bus returned to the host for a read. -/
structure Reply where
  access : Access
  value : Word
  deriving DecidableEq, Repr

/-- Who acts in a step: one of the two agents of R75, or the platform's reset input (70_reset_and_hazards.md R225). -/
inductive Turn where
  | host
  | unit
  | powerOn
  deriving DecidableEq, Repr

structure State where
  /-- The instance's parameters (00_scope.md R5 to R8), read by the host through CAP (R25); no step changes them. -/
  params : Params
  /-- CTRL (R26). -/
  ctrl : Ctrl
  /-- STATUS (R27). With BUSY set, CMD is the in-flight command (R38). -/
  status : Status
  /-- CMD, the last accepted command word (R28). -/
  cmd : Word
  /-- SRC (R29). -/
  src : Word
  /-- DST (R29). -/
  dst : Word
  /-- LEN (R29). -/
  len : Word
  /-- DATA (R30). -/
  data : Word
  /-- X0, bytes 0 to 3 of X (R31, R33). -/
  x0 : Word
  /-- X1, bytes 4 to 7 of X (R31, R33). -/
  x1 : Word
  /-- WRAP, the wrap width (R32). -/
  wrap : Word
  /-- COL, the output column (R32). -/
  col : Word
  /-- OLEN (R34). -/
  olen : Word
  /-- AUX (R35). -/
  aux : Word
  /-- ERRINFO (R36). -/
  errinfo : Word
  /-- BUF (R37). -/
  buf : Memory
  /-- The model's own: what the host's program does from here on (R21; log 2). -/
  script : List HostAction
  /-- The model's own: who acts in the coming steps (R75; log 1). -/
  turns : List Turn
  /-- The model's own: what reads have returned to the host, newest first (log 13). -/
  replies : List Reply
  /-- The model's own: how many free values have been taken (log 4). -/
  draws : Nat
  deriving DecidableEq, Repr

/-- Why a step stops the machine: never. "The unit never stops, hangs or waits for the host in the middle of a command"
(60_exceptions.md R195), every host access has an effect or none (20_memory.md R73), and 93_implementation_defined.md
treats no item as `fault` or `stuck`. So the type has no constructor (log 9). -/
inductive Fault
  deriving DecidableEq, Repr

/-- Why a step has no meaning. -/
inductive Refusal where
  /-- A command whose meaning is not written yet; raised only by an arm of `exec`, and by none now. Safe. -/
  | notModelled (mnemonic : String)
  deriving DecidableEq, Repr

/-- The outcome of a step or a command. -/
abbrev Outcome := Host.Outcome State Fault Refusal

/-- The machine after power-on reset (R40, R226, R229), with the parameters at their defaults (log 3), nothing
scheduled and no free value taken (log 1, 2, 4, 13). -/
def State.reset : State where
  params := Params.default
  ctrl := { ie := false }
  status := { busy := false, done := false, ovr := false, err := .none }
  cmd := 0
  src := 0
  dst := 0
  len := 0
  data := 0
  x0 := 0
  x1 := 0
  wrap := 0
  col := 0
  olen := 0
  aux := 0
  errinfo := 0
  buf := []
  script := []
  turns := []
  replies := []
  draws := 0

end Sys2Proof.Machine
end

