-- ==== Sys2Proof/Machine/Operands.lean ====
section
/-! DEFINITION. Byte constants, byte order and the implicit operands of a command (spec 00_scope.md R13 to R15;
10_state.md R33; 20_memory.md R63; 30_encoding.md R89; 41_buffer_codec.md R120). -/

namespace Sys2Proof.Machine

/-- `'!'`, the alphabet's minimum and digit value 0 (R14). -/
def chBang : Byte := 0x21#8

/-- `'u'`, the alphabet's maximum and digit value 84 (R14). -/
def chU : Byte := 0x75#8

/-- `'z'`, the zero-tuple shorthand (R14). -/
def chZ : Byte := 0x7A#8

/-- `'0'` (R14). -/
def chZero : Byte := 0x30#8

/-- `'1'` (R14). -/
def chOne : Byte := 0x31#8

/-- LF, the newline the wrapping copy inserts (R14). -/
def chLF : Byte := 0x0A#8

/-- The powers of 85, most significant first (R15). -/
def pow85 : List Nat := [52200625, 614125, 7225, 85, 1]

/-- The big-endian word of four bytes, `a` the most significant (R13). -/
def be32 (a b c d : Byte) : Word := a ++ b ++ c ++ d

/-- The four bytes of a word, most significant first (R13). -/
def bytesBe32 (v : Word) : List Byte :=
  [v.extractLsb' 24 8, v.extractLsb' 16 8, v.extractLsb' 8 8, v.extractLsb' 0 8]

/-- A count as a register holds it (log 12). -/
def countWord (n : Nat) : Word := BitVec.ofNat 32 n

/-- `X.byte(i)`, for i in 0..7 (R33). -/
def State.xByte (s : State) (i : Nat) : Byte :=
  if i < 4 then s.x0.extractLsb' (24 - 8 * i) 8 else s.x1.extractLsb' (24 - 8 * (i - 4)) 8

/-- The bytes X.byte(0) to X.byte(n-1). -/
def State.xBytes (s : State) (n : Nat) : List Byte := (List.range n).map s.xByte

/-- Writes X.byte(0) to X.byte(7): the bytes of `l`, and 0x00 where `l` has none left (R33, R109, R110, R148). -/
def State.setX (s : State) (l : List Byte) : State :=
  { s with
    x0 := be32 (l.getD 0 0) (l.getD 1 0) (l.getD 2 0) (l.getD 3 0)
    x1 := be32 (l.getD 4 0) (l.getD 5 0) (l.getD 6 0) (l.getD 7 0) }

/-- Whether the range of `n` bytes at `a` lies in BUF, in unbounded arithmetic (R63, R120). -/
def State.validRange (s : State) (a n : Nat) : Bool := decide (a + n ≤ s.params.bufBytes)

/-- Whether the range of `m` bytes at `a` and the range of `n` bytes at `d` share a byte (R120). -/
def rangesOverlap (a m d n : Nat) : Bool := decide (0 < m ∧ 0 < n ∧ a < d + n ∧ d < a + m)

end Sys2Proof.Machine
end

