-- ==== Sys2Proof/Machine/Flags.lean ====
section
/-! DEFINITION. STATUS, CTRL, CAP and IRQ: their values as the host reads them and the ways they change
(spec 10_state.md R24 to R28, R39; 60_exceptions.md R196 to R198, R206, R207). -/

namespace Sys2Proof.Machine

/-- ID (R24). -/
def idWord : Word := 0x42383501#32

/-- CAP (R25): HAS_BITS at bit 0, LANES_LOG2 at 5:4, BUF_LOG2 at 15:8, every other bit 0. -/
def capWord (p : Params) : Word :=
  0#16 ++ BitVec.ofNat 8 p.bufLog2 ++ 0#2 ++ BitVec.ofNat 2 p.lanesLog2.val ++ 0#3 ++ BitVec.ofBool p.hasBits

/-- The code of an error in STATUS.ERR (R198). -/
def ErrCode.code : ErrCode → BitVec 4
  | .none => 0
  | .illegal => 1
  | .bounds => 2
  | .overlap => 3
  | .zpos => 4
  | .param => 5

/-- STATUS as read (R27): BUSY at bit 0, DONE at 1, OVR at 2, ERR at 11:8, every other bit 0. -/
def Status.word (t : Status) : Word :=
  0#20 ++ t.err.code ++ 0#5 ++ BitVec.ofBool t.ovr ++ BitVec.ofBool t.done ++ BitVec.ofBool t.busy

/-- CTRL as read (R26): IE at bit 0; SRST and the reserved bits read 0. -/
def Ctrl.word (c : Ctrl) : Word := 0#31 ++ BitVec.ofBool c.ie

/-- A command is accepted: BUSY set, DONE and ERR cleared, OVR unchanged (R28). -/
def Status.accept (t : Status) : Status := { t with busy := true, done := false, err := .none }

/-- A command ends with this ERR code: BUSY cleared, DONE set (R196, R197). -/
def Status.finish (t : Status) (e : ErrCode) : Status := { t with busy := false, done := true, err := e }

/-- A host write was dropped while busy: OVR set (20_memory.md R76, R206). -/
def Status.overrun (t : Status) : Status := { t with ovr := true }

/-- A host write of `v` to STATUS: DONE (bit 1) and OVR (bit 2) are cleared where `v` has a 1, and nothing else changes
(R23 W1C, R27). -/
def Status.writeOneToClear (t : Status) (v : Word) : Status :=
  { t with done := t.done && !v.getLsbD 1, ovr := t.ovr && !v.getLsbD 2 }

/-- The interrupt line: the level CTRL.IE AND STATUS.DONE (R39, R207). -/
def State.irq (s : State) : Bool := s.ctrl.ie && s.status.done

/-- The command in flight: the latched word while BUSY is set (R38). -/
def State.inFlight (s : State) : Option Word := if s.status.busy then some s.cmd else none

end Sys2Proof.Machine
end

