-- ==== Sys2Proof/Machine/Ops.lean ====
section
/-! DEFINITION. The operations every command and every host access is made of: BUF (spec 20_memory.md R60, R83), free
values, the two completions (60_exceptions.md R196, R197), the host's acknowledgement (R210), acceptance of a command
(10_state.md R28), the resets (70_reset_and_hazards.md R226, R227), and the two shapes of a buffer command. -/

namespace Sys2Proof.Machine

/-! ### BUF -/

/-- The canonical form of BUF: addresses strictly rising (log 5). -/
def Memory.wf : Memory → Bool
  | [] => true
  | (a, _) :: rest => rest.all (fun c => decide (a < c.1)) && Memory.wf rest

/-- Every written byte lies in BUF (R60). -/
def Memory.below (n : Nat) (m : Memory) : Bool := m.all (fun c => decide (c.1 < n))

/-- The byte written at `a`, or none if nothing has been written there (R226; log 5). -/
def Memory.read? : Memory → Nat → Option Byte
  | [], _ => none
  | (x, v) :: rest, a => if a = x then some v else Memory.read? rest a

/-- `BUF[a] <- b`. -/
def Memory.write (a : Nat) (b : Byte) : Memory → Memory
  | [] => [(a, b)]
  | (x, v) :: rest =>
    if a < x then (a, b) :: (x, v) :: rest
    else if a = x then (a, b) :: rest
    else (x, v) :: Memory.write a b rest

/-- `MemWrite(a, len(l), l)` (00_scope.md R12). -/
def Memory.writeBytes (m : Memory) (a : Nat) : List Byte → Memory
  | [] => m
  | b :: bs => Memory.writeBytes (Memory.write a b m) (a + 1) bs

/-! ### Free values -/

/-- `n` free values have been taken (log 4). -/
def State.draw (s : State) (n : Nat) : State := { s with draws := s.draws + n }

/-- `MemRead(a, n)` (R12): each byte is the one written, or a free value of its own if none was (R226, U12; log 6). -/
def State.memRead (s : State) (a n : Nat) : List Byte :=
  (List.range n).map fun i => (Memory.read? s.buf (a + i)).getD (Config.freeByte (s.draws + i))

/-- The input of a buffer command, `MemRead(R.SRC, R.LEN)` (R120). -/
def State.input (s : State) : List Byte := s.memRead s.src.toNat s.len.toNat

/-! ### Completions, acknowledgement, acceptance -/

/-- Writes OLEN and AUX (R34, R35; log 12). -/
def State.setResult (s : State) (n a : Nat) : State := { s with olen := countWord n, aux := countWord a }

/-- `complete()`, the success completion (R196). -/
def State.complete (s : State) : State := { s with errinfo := 0, status := s.status.finish .none }

/-- `raise Err(code, info)`, the error completion: this block's only exception entry (R197, R209). It saves ERR, ERRINFO,
OLEN and AUX; there is no pc, mode or vector (10_state.md R21). -/
def State.raiseErr (s : State) (code : ErrCode) (info : Word) : State :=
  { s with olen := 0, aux := 0, errinfo := info, status := s.status.finish code }

/-- A host write of `v` to STATUS, the acknowledgement that plays the return from an exception: nothing is restored
(R27, R210). -/
def State.writeStatus (s : State) (v : Word) : State := { s with status := s.status.writeOneToClear v }

/-- A command word is accepted (R28): the other way to acknowledge a completion (R210). -/
def State.accept (s : State) (v : Word) : State := { s with cmd := v, status := s.status.accept }

/-- A host write that arrives while busy is dropped: only OVR changes (R76, R206). -/
def State.dropWrite (s : State) : State := { s with status := s.status.overrun }

/-! ### Reset -/

/-- Every register at its reset value, no command in flight, and BUF as given (R40). What belongs to the instance and
to its surroundings stays (log 3, log 7). -/
def State.resetWith (s : State) (m : Memory) : State :=
  { State.reset with
    params := s.params, buf := m, script := s.script, turns := s.turns, replies := s.replies, draws := s.draws }

/-- Power-on reset: every BUF byte unspecified (R226). -/
def State.powerOnReset (s : State) : State := s.resetWith []

/-- Soft reset: BUF unchanged if no command was in flight, every byte unspecified otherwise (R227). -/
def State.softReset (s : State) : State := s.resetWith (if s.status.busy then [] else s.buf)

/-- A host write of `v` to CTRL, busy or not (R26, R228): with SRST = 1 a soft reset, which discards bit 0; else IE <- v[0]. -/
def State.writeCtrl (s : State) (v : Word) : State :=
  if v.getLsbD 1 then s.softReset else { s with ctrl := { ie := v.getLsbD 0 } }

/-! ### The shapes of a buffer command -/

/-- What a buffer command computes from its input: the bytes for DST, the value of AUX, and the new COL where the command
writes it (R41). -/
structure Chunk where
  out : List Byte
  aux : Nat
  col : Option Nat := none
  deriving DecidableEq, Repr

/-- The second half of a command that reads one range and writes another, after its input was read: the destination
check (BOUNDS, ERRINFO 1), the overlap check, then every write, and the completion (R122, R200, R201, R205). -/
def State.deliver (s : State) (c : Chunk) : State :=
  let n := c.out.length
  if !s.validRange s.dst.toNat n then s.raiseErr .bounds 1
  else if rangesOverlap s.src.toNat s.len.toNat s.dst.toNat n then s.raiseErr .overlap 0
  else
    ({ s with
        buf := Memory.writeBytes s.buf s.dst.toNat c.out
        col := (c.col.map countWord).getD s.col }.setResult n c.aux).complete

/-- A command that reads BUF[SRC, SRC+LEN) and writes BUF[DST, DST+n): the source check (BOUNDS, ERRINFO 0), the input
read at the start of the step (R83), the transform `f`, whose failure at offset `i` is ZPOS with ERRINFO `i`
(R126, R202), then the delivery (R122). -/
def State.transcode (s : State) (f : List Byte → Except Nat Chunk) : State :=
  if !s.validRange s.src.toNat s.len.toNat then s.raiseErr .bounds 0
  else
    match f s.input with
    | .error i => (s.draw s.len.toNat).raiseErr .zpos (countWord i)
    | .ok c => (s.draw s.len.toNat).deliver c

/-- `compact(in, keep)` (43_filter.md R166). -/
def compact (l : List Byte) (keep : Byte → Bool) : List Byte := l.filter keep

/-- A filter command: it keeps, at SRC and in order, the bytes of BUF[SRC, SRC+LEN) that satisfy `keep`, and leaves the
bytes past the new length alone (R166, R167). -/
def State.filterInPlace (s : State) (keep : Byte → Bool) : State :=
  if !s.validRange s.src.toNat s.len.toNat then s.raiseErr .bounds 0
  else
    let k := compact s.input keep
    let t := s.draw s.len.toNat
    ({ t with buf := Memory.writeBytes t.buf t.src.toNat k }.setResult k.length (s.len.toNat - k.length)).complete

end Sys2Proof.Machine
end

