-- ==== Sys2Proof/Machine/Bus.lean ====
section
/-! DEFINITION. The host's accesses to the block's window (spec 10_state.md R22, R23; 20_memory.md R61, R68 to R77). -/

namespace Sys2Proof.Machine

/-- The width of an access. -/
inductive Width where
  | bits8
  | bits16
  | bits32
  deriving DecidableEq, Repr

/-- What an access reaches. -/
inductive Target where
  /-- A register (R22). -/
  | reg (r : RegName)
  /-- BUF[a] (R61). -/
  | byte (a : Nat)
  /-- A reserved offset (R73). -/
  | reserved
  /-- A malformed access (R68, R69). -/
  | malformed
  deriving DecidableEq, Repr

/-- The offset of a register in the window (R22). -/
def RegName.offset : RegName → Nat
  | .ID => 0x00
  | .CAP => 0x04
  | .CTRL => 0x08
  | .STATUS => 0x0C
  | .CMD => 0x10
  | .SRC => 0x14
  | .DST => 0x18
  | .LEN => 0x1C
  | .DATA => 0x20
  | .X0 => 0x24
  | .X1 => 0x28
  | .WRAP => 0x2C
  | .COL => 0x30
  | .OLEN => 0x34
  | .AUX => 0x38
  | .ERRINFO => 0x3C

/-- The register at an offset, if there is one (R22). -/
def RegName.ofOffset (o : Nat) : Option RegName :=
  [RegName.ID, .CAP, .CTRL, .STATUS, .CMD, .SRC, .DST, .LEN, .DATA, .X0, .X1, .WRAP, .COL, .OLEN, .AUX,
    .ERRINFO].find? fun r => r.offset == o

/-- The window offset of BUF[0] (R61). -/
def bufWindow : Nat := 0x1000000

/-- The map of the window (R61, R68, R69, R73). -/
def busTarget (p : Params) (w : Width) (o : Offset) : Target :=
  let n := o.toNat
  if n < 0x100 then
    if w = .bits32 ∧ n % 4 = 0 then
      match RegName.ofOffset n with
      | some r => .reg r
      | none => .reserved
    else .malformed
  else if n < bufWindow then .reserved
  else if n - bufWindow < p.bufBytes then
    if w = .bits8 then .byte (n - bufWindow) else .malformed
  else .reserved

/-- The current value of a register (R24 to R36). -/
def State.regValue (s : State) : RegName → Word
  | .ID => idWord
  | .CAP => capWord s.params
  | .CTRL => s.ctrl.word
  | .STATUS => s.status.word
  | .CMD => s.cmd
  | .SRC => s.src
  | .DST => s.dst
  | .LEN => s.len
  | .DATA => s.data
  | .X0 => s.x0
  | .X1 => s.x1
  | .WRAP => s.wrap
  | .COL => s.col
  | .OLEN => s.olen
  | .AUX => s.aux
  | .ERRINFO => s.errinfo

/-- The registers whose value is unspecified when the host reads them while busy (R77). -/
def RegName.hiddenWhileBusy : RegName → Bool
  | .DATA | .X0 | .X1 | .COL | .OLEN | .AUX | .ERRINFO => true
  | .ID | .CAP | .CTRL | .STATUS | .CMD | .SRC | .DST | .LEN | .WRAP => false

/-- The value a read returns (R68, R69, R73, R77; unwritten BUF bytes R226; log 4). -/
def State.readValue (s : State) : Target → Word
  | .reg r => if s.status.busy && r.hiddenWhileBusy then Config.freeWord s.draws else s.regValue r
  | .byte a =>
    if s.status.busy then (Config.freeByte s.draws).setWidth 32
    else ((Memory.read? s.buf a).getD (Config.freeByte s.draws)).setWidth 32
  | .reserved => 0
  | .malformed => 0

/-- Whether a read takes a free value (R77, R226). -/
def State.readDraws (s : State) : Target → Bool
  | .reg r => s.status.busy && r.hiddenWhileBusy
  | .byte a => s.status.busy || (Memory.read? s.buf a).isNone
  | .reserved => false
  | .malformed => false

/-- A register the host can write only while idle (RWB, R23) is written, or the write is dropped while busy (R76). -/
def State.writeWhenIdle (s : State) (t : State) : State := if s.status.busy then s.dropWrite else t

/-- A host write of `v` to a register (R22, R23, R26 to R32, R76). -/
def State.writeReg (s : State) (v : Word) : RegName → State
  | .ID => s
  | .CAP => s
  | .CTRL => s.writeCtrl v
  | .STATUS => s.writeStatus v
  | .CMD => s.writeWhenIdle (s.accept v)
  | .SRC => s.writeWhenIdle { s with src := v }
  | .DST => s.writeWhenIdle { s with dst := v }
  | .LEN => s.writeWhenIdle { s with len := v }
  | .DATA => s.writeWhenIdle { s with data := v }
  | .X0 => s.writeWhenIdle { s with x0 := v }
  | .X1 => s.writeWhenIdle { s with x1 := v }
  | .WRAP => s.writeWhenIdle { s with wrap := v }
  | .COL => s.writeWhenIdle { s with col := v }
  | .OLEN => s
  | .AUX => s
  | .ERRINFO => s

/-- A host write of `v`; a byte write stores its low 8 bits, which are all it has (R68, R69, R73, R76). -/
def State.writeTarget (s : State) (v : Word) : Target → State
  | .reg r => s.writeReg v r
  | .byte a => s.writeWhenIdle { s with buf := Memory.write a (v.setWidth 8) s.buf }
  | .reserved => s
  | .malformed => s

/-- A read by the access `a` of the target `t`: the value is returned to the host, and nothing of the block changes (R72). -/
def State.hostRead (s : State) (a : Access) (t : Target) : State :=
  { s with
    replies := { access := a, value := s.readValue t } :: s.replies
    draws := if s.readDraws t then s.draws + 1 else s.draws }

/-- One host bus access takes effect (R75). -/
def State.bus (s : State) (a : Access) : State :=
  match a with
  | .r8 o => s.hostRead a (busTarget s.params .bits8 o)
  | .r16 o => s.hostRead a (busTarget s.params .bits16 o)
  | .r32 o => s.hostRead a (busTarget s.params .bits32 o)
  | .w8 o v => s.writeTarget (v.setWidth 32) (busTarget s.params .bits8 o)
  | .w16 o v => s.writeTarget (v.setWidth 32) (busTarget s.params .bits16 o)
  | .w32 o v => s.writeTarget v (busTarget s.params .bits32 o)

/-- The access that reads STATUS, `R32(0x0C)` (30_encoding.md R98, R99). -/
def readStatus : Access := .r32 0x0C

/-- The host's next action: an access, or one round of `wait`, which reads STATUS and comes round again while bit 0 of
the value read is 1 (R98; log 2). A host with nothing to do leaves everything as it is. -/
def State.hostMove (s : State) : State :=
  match s.script with
  | [] => s
  | .access a :: rest => State.bus { s with script := rest } a
  | .wait :: rest =>
    let v := s.readValue (busTarget s.params .bits32 0x0C)
    State.bus { s with script := if v.getLsbD 0 then s.script else rest } readStatus

end Sys2Proof.Machine
end

