-- ==== Sys2Proof/Machine/BitAscii.lean ====
section
/-! DEFINITION. The bit-to-ASCII transform (spec 42_bit_ascii.md R145 to R151). HAS_BITS = 0 makes the words of these
commands illegal at decode (30_encoding.md R91), before any of these meanings is reached (log 16). LANES has no part in
any result (R147). -/

namespace Sys2Proof.Machine

/-- The eight characters of a byte, bit 7 first (R145). -/
def b2a (b : Byte) : List Byte := (List.range 8).map fun i => if b.getLsbD (7 - i) then chOne else chZero

/-- The byte of eight characters: bit 0 of each, the first at bit 7 (R146). -/
def a2b (l : List Byte) : Byte := ((List.range 8).map fun i => (l.getD i 0 &&& 1#8) <<< (7 - i)).sum

/-- BENCB's output (R150). -/
def bitsOfBytes (l : List Byte) : Chunk := { out := l.flatMap b2a, aux := 0 }

/-- BDECB's output: each complete group of eight, and the count of trailing bytes not consumed (R151). -/
def bytesOfBits (l : List Byte) : Chunk :=
  { out := (List.range (l.length / 8)).map fun j => a2b ((l.drop (8 * j)).take 8), aux := l.length % 8 }

/-- BENC (R148). -/
def execBenc (s : State) : Outcome := .next ((s.setX (b2a (s.data.setWidth 8))).setResult 8 0).complete

/-- BDEC (R149). -/
def execBdec (s : State) : Outcome :=
  .next ({ s with data := (a2b (s.xBytes 8)).setWidth 32 }.setResult 1 0).complete

/-- BENCB (R150). -/
def execBencb (s : State) : Outcome := .next (s.transcode fun l => .ok (bitsOfBytes l))

/-- BDECB (R151). -/
def execBdecb (s : State) : Outcome := .next (s.transcode fun l => .ok (bytesOfBits l))

end Sys2Proof.Machine
end

