-- ==== Sys2Proof/Machine/TupleCodec.lean ====
section
/-! DEFINITION. The radix-85 tuple codec and its register-form commands (spec 40_tuple_codec.md R105 to R111). -/

namespace Sys2Proof.Machine

/-- The five characters of a 32-bit value, most significant digit first (R105). -/
def enc85 (v : Word) : List Byte := pow85.map fun p => BitVec.ofNat 8 (v.toNat / p % 85) + chBang

/-- The weight a byte contributes to a decoded tuple, `(b - 0x21) mod 2^32` (R106). -/
def digit85 (b : Byte) : Nat := (b.setWidth 32 - chBang.setWidth 32 : Word).toNat

/-- The 32-bit value of five bytes: the weighted sum modulo 2^32, for every byte value (R106). -/
def dec85 (l : List Byte) : Word := BitVec.ofNat 32 (List.zipWith (fun b p => p * digit85 b) l pow85).sum

/-- TENC (R109). -/
def execTenc (s : State) : Outcome := .next ((s.setX (enc85 s.data)).setResult 5 0).complete

/-- TENCZ (R110). -/
def execTencz (s : State) : Outcome :=
  if s.data = 0 then .next ((s.setX [chZ]).setResult 1 0).complete
  else .next ((s.setX (enc85 s.data)).setResult 5 0).complete

/-- TDEC (R111). -/
def execTdec (s : State) : Outcome := .next ({ s with data := dec85 (s.xBytes 5) }.setResult 4 0).complete

end Sys2Proof.Machine
end

