-- ==== Sys2Proof/Machine/BufferCodec.lean ====
section
/-! DEFINITION. The tuple codec over one chunk of BUF (spec 41_buffer_codec.md R120 to R126). -/

namespace Sys2Proof.Machine

/-- The pad count of an encode chunk of `n` bytes: 0 to 3 (R121). -/
def encPad (n : Nat) : Nat := (4 - n % 4) % 4

/-- R121's loop over the padded input from tuple `t` on: `n` is the unpadded length, so `4t + 4 <= n` says that tuple `t`
is complete. -/
def encTuples (zf : Bool) (n : Nat) : Nat → List Byte → List Byte
  | t, a :: b :: c :: d :: rest =>
    (if zf && be32 a b c d == 0 && decide (4 * t + 4 ≤ n) then [chZ] else enc85 (be32 a b c d))
      ++ encTuples zf n (t + 1) rest
  | _, _ => []

/-- `enc_chunk(in, zf)` (R121): zero-pad, encode, and drop as many characters from the tail as bytes were padded. -/
def encChunk (l : List Byte) (zf : Bool) : Chunk :=
  let p := encPad l.length
  let out := encTuples zf l.length 0 (l ++ List.replicate p 0)
  { out := out.take (out.length - p), aux := p }

/-- Puts bytes before the output of the rest of a decode, or passes its failure on. -/
def emitBefore (x : List Byte) : Except Nat Chunk → Except Nat Chunk
  | .ok c => .ok { c with out := x ++ c.out }
  | .error i => .error i

/-- The end of a decode chunk with the characters `g` pending: pad with 'u' to 5 and keep 4 - P bytes (R124). -/
def decTail (g : List Byte) : Chunk :=
  if g.isEmpty then { out := [], aux := 0 }
  else
    let p := 5 - g.length
    { out := (bytesBe32 (dec85 (g ++ List.replicate p chU))).take (4 - p), aux := p }

/-- R124's loop from offset `i` on, with the characters `g` pending; the failure is the offset of a misplaced 'z'. -/
def decBytes (zf : Bool) : Nat → List Byte → List Byte → Except Nat Chunk
  | _, g, [] => .ok (decTail g)
  | i, g, b :: rest =>
    if zf && b == chZ then
      if g.isEmpty then emitBefore [0, 0, 0, 0] (decBytes zf (i + 1) [] rest) else .error i
    else if g.length + 1 = 5 then emitBefore (bytesBe32 (dec85 (g ++ [b]))) (decBytes zf (i + 1) [] rest)
    else decBytes zf (i + 1) (g ++ [b]) rest

/-- `dec_chunk(in, zf)` (R124). -/
def decChunk (l : List Byte) (zf : Bool) : Except Nat Chunk := decBytes zf 0 [] l

/-- ENC (R122). -/
def execEnc (s : State) : Outcome := .next (s.transcode fun l => .ok (encChunk l false))

/-- ENCZ (R123). -/
def execEncz (s : State) : Outcome := .next (s.transcode fun l => .ok (encChunk l true))

/-- DEC (R125). -/
def execDec (s : State) : Outcome := .next (s.transcode fun l => decChunk l false)

/-- DECZ (R126). -/
def execDecz (s : State) : Outcome := .next (s.transcode fun l => decChunk l true)

end Sys2Proof.Machine
end

