-- ==== Sys2Proof/Machine/Filter.lean ====
section
/-! DEFINITION. The in-place filters (spec 43_filter.md R165 to R169). FILT_BLOCK has no part in any result (R166). -/

namespace Sys2Proof.Machine

/-- '!' .. 'u' (R165). -/
def keep85 (b : Byte) : Bool := decide (chBang ≤ b) && decide (b ≤ chU)

/-- '!' .. 'u' and 'z' (R165). -/
def keep85z (b : Byte) : Bool := keep85 b || b == chZ

/-- '0' and '1' (R165). -/
def keepbin (b : Byte) : Bool := b &&& 0xFE#8 == 0x30#8

/-- FILT85 (R167). -/
def execFilt85 (s : State) : Outcome := .next (s.filterInPlace keep85)

/-- FILT85Z (R168). -/
def execFilt85z (s : State) : Outcome := .next (s.filterInPlace keep85z)

/-- FILTBIN (R169). -/
def execFiltbin (s : State) : Outcome := .next (s.filterInPlace keepbin)

end Sys2Proof.Machine
end

