-- ==== Sys2Proof/Machine/Stream.lean ====
section
/-! DEFINITION. The column-wrapping copy and the no-operation command (spec 44_stream_support.md R180 to R183). -/

namespace Sys2Proof.Machine

/-- R180's loop for a width `w` > 0, one payload byte at a time (log 14): copy the byte, and when the column reaches `w`
emit a newline and start over at column 0. The output, the final column and the newline count. -/
def wrapBytes (w : Nat) : Nat → List Byte → List Byte × Nat × Nat
  | c, [] => ([], c, 0)
  | c, b :: rest =>
    if c + 1 = w then
      let r := wrapBytes w 0 rest
      (b :: chLF :: r.1, r.2.1, r.2.2 + 1)
    else
      let r := wrapBytes w (c + 1) rest
      (b :: r.1, r.2)

/-- `wrap(in, W, C)` (R180): the output, the final column and the newline count. -/
def wrapText (l : List Byte) (w c : Nat) : List Byte × Nat × Nat := if w = 0 then (l, c, 0) else wrapBytes w c l

/-- WRAP's output, AUX and COL (R181). -/
def wrapChunk (w c : Nat) (l : List Byte) : Chunk :=
  let r := wrapText l w c
  { out := r.1, aux := r.2.2, col := some r.2.1 }

/-- WRAP (R181): PARAM first, then as every command that reads one range and writes another. -/
def execWrap (s : State) : Outcome :=
  if 0 < s.wrap.toNat ∧ s.wrap.toNat ≤ s.col.toNat then .next (s.raiseErr .param 0)
  else .next (s.transcode fun l => .ok (wrapChunk s.wrap.toNat s.col.toNat l))

/-- NOP (R183). -/
def execNop (s : State) : Outcome := .next s.complete

end Sys2Proof.Machine
end

