-- ==== Sys2Proof/Machine/Dispatch.lean ====
section
/-! DEFINITION. The meaning of each command (spec 30_encoding.md R90). -/

namespace Sys2Proof.Machine

def exec (i : Instr) (s : State) : Host.Outcome State Fault Refusal :=
  match i with
  | .nop => Sys2Proof.Machine.execNop s
  | .tenc => Sys2Proof.Machine.execTenc s
  | .tencz => Sys2Proof.Machine.execTencz s
  | .tdec => Sys2Proof.Machine.execTdec s
  | .enc => Sys2Proof.Machine.execEnc s
  | .encz => Sys2Proof.Machine.execEncz s
  | .dec => Sys2Proof.Machine.execDec s
  | .decz => Sys2Proof.Machine.execDecz s
  | .benc => Sys2Proof.Machine.execBenc s
  | .bdec => Sys2Proof.Machine.execBdec s
  | .bencb => Sys2Proof.Machine.execBencb s
  | .bdecb => Sys2Proof.Machine.execBdecb s
  | .filt85 => Sys2Proof.Machine.execFilt85 s
  | .filt85z => Sys2Proof.Machine.execFilt85z s
  | .filtbin => Sys2Proof.Machine.execFiltbin s
  | .wrap => Sys2Proof.Machine.execWrap s

end Sys2Proof.Machine
end

