-- ==== Sys2Proof/Machine/Unit.lean ====
section
/-! DEFINITION. The unit's one kind of step, *execute* (spec 20_memory.md R75, 30_encoding.md R91). -/

namespace Sys2Proof.Machine

/-- An illegal word's execute step: the error completion ILLEGAL, whatever the cause (R91, R93, R199). -/
def State.rejectWord (s : State) (_ : Illegal) : State := s.raiseErr .illegal 0

/-- The unit decodes the latched word R.CMD and runs the command it selects (R91). -/
def State.execute (s : State) : Outcome :=
  match decode s.params s.cmd with
  | .ok i => exec i s
  | .error e => .next (s.rejectWord e)

end Sys2Proof.Machine
end

