-- ==== Sys2Proof/Machine/Schedule.lean ====
section
/-! DEFINITION. Who acts in a step, and what that does (spec 20_memory.md R75; 70_reset_and_hazards.md R225, R240,
R241; log 1). -/

namespace Sys2Proof.Machine

/-- Whose turn the coming step is: the head of the schedule; with no schedule left, the unit's while a command is in
flight, so that the command is executed (R241), and else the host's. -/
def State.nextTurn (s : State) : Turn :=
  match s.turns with
  | t :: _ => t
  | [] => if s.status.busy then .unit else .host

/-- The schedule moves on by one. -/
def State.endTurn (s : State) : State := { s with turns := s.turns.tail }

/-- The unit's turn: execute, which is enabled iff BUSY is set (R75); idle, it does nothing (log 17). -/
def State.unitMove (s : State) : Outcome := if s.status.busy then s.execute else .next s

/-- What the agent whose turn it is does. -/
def State.move (s : State) : Turn → Outcome
  | .host => .next s.hostMove
  | .unit => s.unitMove
  | .powerOn => .next s.powerOnReset

end Sys2Proof.Machine
end

