-- ==== Sys2Proof/Machine/Step.lean ====
section
/-! DEFINITION. One step of the block: the agent whose turn it is acts, atomically (spec 20_memory.md R75). -/

namespace Sys2Proof.Machine

def step (s : State) : Host.Outcome State Fault Refusal := s.endTurn.move s.nextTurn

/-- `s` with a command of `nbits` bits `w` accepted (R28: the word latched in CMD, BUSY set, DONE and ERR cleared) and the
unit's turn next, so that the coming step executes exactly it (R75, R91; log 8). -/
def State.withFetchWord (s : State) (nbits w : Nat) : State :=
  { s.accept (BitVec.ofNat 32 (w % 2 ^ nbits)) with turns := .unit :: s.turns }

end Sys2Proof.Machine
end

