-- ==== Sys2Proof/Machine/Script.lean ====
section
/-! DEFINITION. The assembler of command mnemonics and the host-script language (spec 30_encoding.md R96 to R99): how a
program text becomes the bus accesses that State's `script` holds. -/

namespace Sys2Proof.Machine

/-- The mnemonic of a command (R90, R96). -/
def mnemonic : Instr → String
  | .nop => "NOP"
  | .tenc => "TENC"
  | .tencz => "TENCZ"
  | .tdec => "TDEC"
  | .enc => "ENC"
  | .encz => "ENCZ"
  | .dec => "DEC"
  | .decz => "DECZ"
  | .benc => "BENC"
  | .bdec => "BDEC"
  | .bencb => "BENCB"
  | .bdecb => "BDECB"
  | .filt85 => "FILT85"
  | .filt85z => "FILT85Z"
  | .filtbin => "FILTBIN"
  | .wrap => "WRAP"

/-- The assembler: the word of a mnemonic, and none for any other spelling (R96). -/
def assemble (m : String) : Option Word := (Instr.all.find? fun i => mnemonic i == m).map encode

/-- A statement of a host script (R97, R98). `a` is a BUF address. -/
inductive Stmt where
  /-- `wr REG, v`. -/
  | wr (r : RegName) (v : Word)
  /-- `rd REG`. -/
  | rd (r : RegName)
  /-- `wb a, b0, b1, ...`. -/
  | wb (a : Nat) (bs : List Byte)
  /-- `ws a, "text"`. -/
  | ws (a : Nat) (text : String)
  /-- `rb a, n`. -/
  | rb (a n : Nat)
  /-- `cmd M`. -/
  | cmd (m : Instr)
  /-- `wait`. -/
  | wait
  /-- `run M`. -/
  | run (m : Instr)
  /-- `ack`. -/
  | ack
  /-- `clrovr`. -/
  | clrovr
  /-- `srst`. -/
  | srst
  deriving DecidableEq, Repr

/-- The window offset of a register (R22). -/
def regOffset (r : RegName) : Offset := BitVec.ofNat 25 r.offset

/-- The window offset of BUF[a] (R61). -/
def byteOffset (a : Nat) : Offset := BitVec.ofNat 25 (bufWindow + a)

/-- A 32-bit write of a register, `W32(offset, v)` (R97, R99). -/
def writeOf (r : RegName) (v : Word) : HostAction := .access (.w32 (regOffset r) v)

/-- Byte writes from `a` on, one access each (R97, R99). -/
def byteWrites (a : Nat) (bs : List Byte) : List HostAction :=
  bs.zipIdx.map fun c => .access (.w8 (byteOffset (a + c.2)) c.1)

/-- The bytes of an ASCII string (R97; log 18). -/
def asciiBytes (text : String) : List Byte := text.toList.map fun c => BitVec.ofNat 8 c.toNat

/-- The accesses a statement stands for (R97 to R99). -/
def Stmt.expand : Stmt → List HostAction
  | .wr r v => [writeOf r v]
  | .rd r => [.access (.r32 (regOffset r))]
  | .wb a bs => byteWrites a bs
  | .ws a text => byteWrites a (asciiBytes text)
  | .rb a n => (List.range n).map fun i => .access (.r8 (byteOffset (a + i)))
  | .cmd m => [writeOf .CMD (encode m)]
  | .wait => [.wait]
  | .run m => [writeOf .CMD (encode m), .wait]
  | .ack => [writeOf .STATUS 0x00000002]
  | .clrovr => [writeOf .STATUS 0x00000004]
  | .srst => [writeOf .CTRL 0x00000002]

/-- The host actions of a whole script (R99). -/
def expandScript (l : List Stmt) : List HostAction := l.flatMap Stmt.expand

/-- The host is given a script to run after what it already has to do (R21; log 8). -/
def State.withScript (s : State) (l : List Stmt) : State := { s with script := s.script ++ expandScript l }

end Sys2Proof.Machine
end

