-- ==== Sys2Proof/Safety.lean ====
section
/-! DEFINITION. The terms claims are stated in: the invariant of the machine, what a command leaves alone, and how a
command ends (spec 10_state.md R27, R36, R41; 20_memory.md R60; 60_exceptions.md R196 to R198). -/

namespace Sys2Proof.Machine

/-- What every step keeps, whoever acts. -/
structure State.Inv (s : State) : Prop where
  /-- The parameters are values the spec allows (00_scope.md R5 to R8). -/
  params_wf : s.params.wf = true
  /-- BUF is in canonical form (log 5). -/
  buf_wf : Memory.wf s.buf = true
  /-- BUF has no byte past BUF_BYTES (R60). -/
  buf_below : Memory.below s.params.bufBytes s.buf = true
  /-- BUSY = 1 implies DONE = 0 and ERR = 0 (R27). -/
  busy_clear : s.status.busy = true → s.status.done = false ∧ s.status.err = .none
  /-- After an error OLEN and AUX are 0 (R34, R35). -/
  err_counts : s.status.err ≠ .none → s.olen = 0 ∧ s.aux = 0
  /-- While idle, ERRINFO is 0 unless the last error was BOUNDS or ZPOS (R36, R198). -/
  errinfo_zero : s.status.busy = false → s.status.err ≠ .bounds → s.status.err ≠ .zpos → s.errinfo = 0
  /-- For BOUNDS, ERRINFO is 0 or 1 (R36, R198). -/
  errinfo_bounds : s.status.err = .bounds → s.errinfo = 0 ∨ s.errinfo = 1
  /-- For ZPOS, ERRINFO is an offset inside a range of BUF (R202). -/
  errinfo_zpos : s.status.err = .zpos → s.errinfo.toNat < s.params.bufBytes
  /-- OLEN counts bytes of BUF or of X (R34). -/
  olen_le : s.olen.toNat ≤ s.params.bufBytes

/-- What no command writes: the parameters, CTRL, CMD, SRC, DST, LEN, WRAP, STATUS.OVR, and the model's own fields but for
the counter of free values (R41; 20_memory.md R77). -/
structure SameControl (s t : State) : Prop where
  params : t.params = s.params
  ctrl : t.ctrl = s.ctrl
  ovr : t.status.ovr = s.status.ovr
  cmd : t.cmd = s.cmd
  src : t.src = s.src
  dst : t.dst = s.dst
  len : t.len = s.len
  wrap : t.wrap = s.wrap
  script : t.script = s.script
  turns : t.turns = s.turns
  replies : t.replies = s.replies

/-- DATA, X0, X1 and COL, which are both operands and results (R20), are as before. -/
structure SameData (s t : State) : Prop where
  data : t.data = s.data
  x0 : t.x0 = s.x0
  x1 : t.x1 = s.x1
  col : t.col = s.col

/-- Every byte of BUF is as before, the unwritten ones too. -/
def SameBuf (s t : State) : Prop := ∀ a, Memory.read? t.buf a = Memory.read? s.buf a

/-- Every byte of BUF outside the `n` bytes at `a` is as before. -/
def SameBufOutside (s t : State) (a n : Nat) : Prop :=
  ∀ x, x < a ∨ a + n ≤ x → Memory.read? t.buf x = Memory.read? s.buf x

/-- BUF holds the bytes `l` from `a` on. -/
def BufHolds (t : State) (a : Nat) (l : List Byte) : Prop :=
  ∀ i, i < l.length → Memory.read? t.buf (a + i) = l[i]?

/-- The command has ended with this ERR and ERRINFO (R196, R197). -/
structure EndedWith (t : State) (e : ErrCode) (info : Word) : Prop where
  busy : t.status.busy = false
  done : t.status.done = true
  err : t.status.err = e
  errinfo : t.errinfo = info

/-- A success completion with these values of OLEN and AUX (R196). -/
structure Succeeded (s t : State) (olen aux : Nat) : Prop where
  ended : EndedWith t .none 0
  control : SameControl s t
  olen : t.olen.toNat = olen
  aux : t.aux.toNat = aux

/-- An error completion: only STATUS, OLEN, AUX and ERRINFO have changed (R197). -/
structure FailedWith (s t : State) (e : ErrCode) (info : Word) : Prop where
  ended : EndedWith t e info
  control : SameControl s t
  data : SameData s t
  buf : SameBuf s t
  olen : t.olen = 0
  aux : t.aux = 0

/-- The bytes `l` have been written at `a`, and no other byte of BUF has changed (R41). -/
structure WroteAt (s t : State) (a : Nat) (l : List Byte) : Prop where
  holds : BufHolds t a l
  others : SameBufOutside s t a l.length

/-- The ranges are those with which a command that reads BUF[SRC, SRC+LEN) and writes `n` bytes at DST succeeds
(R120, R200, R201): both lie in BUF, and they share no byte. -/
def TransferRangesOk (s : State) (n : Nat) : Prop :=
  s.src.toNat + s.len.toNat ≤ s.params.bufBytes ∧ s.dst.toNat + n ≤ s.params.bufBytes ∧
  ¬ (0 < s.len.toNat ∧ 0 < n ∧ s.src.toNat < s.dst.toNat + n ∧ s.dst.toNat < s.src.toNat + s.len.toNat)

/-- A transfer has succeeded: the bytes stand at DST, OLEN and AUX hold their count and the auxiliary count, and DATA and
X are as before (R41, R122). COL is left to the statement. -/
structure TransferDone (s t : State) (c : Chunk) : Prop where
  succeeded : Succeeded s t c.out.length c.aux
  wrote : WroteAt s t s.dst.toNat c.out
  data : t.data = s.data
  x0 : t.x0 = s.x0
  x1 : t.x1 = s.x1

/-- The seven commands that read one range and write another, with what each computes from its input (R121, R124, R150,
R151, R181). -/
def transferOf (s : State) : Instr → Option (List Byte → Except Nat Chunk)
  | .enc => some fun l => .ok (encChunk l false)
  | .encz => some fun l => .ok (encChunk l true)
  | .dec => some fun l => decChunk l false
  | .decz => some fun l => decChunk l true
  | .bencb => some fun l => .ok (bitsOfBytes l)
  | .bdecb => some fun l => .ok (bytesOfBits l)
  | .wrap => some fun l => .ok (wrapChunk s.wrap.toNat s.col.toNat l)
  | .nop | .tenc | .tencz | .tdec | .benc | .bdec | .filt85 | .filt85z | .filtbin => none

/-- The three in-place filters, with the bytes each keeps (R165). -/
def filterOf : Instr → Option (Nat → Bool)
  | .filt85 => some fun b => decide (0x21 ≤ b ∧ b ≤ 0x75)
  | .filt85z => some fun b => decide (0x21 ≤ b ∧ b ≤ 0x75 ∨ b = 0x7A)
  | .filtbin => some fun b => decide (b = 0x30 ∨ b = 0x31)
  | .nop | .tenc | .tencz | .tdec | .enc | .encz | .dec | .decz | .benc | .bdec | .bencb | .bdecb | .wrap => none

/-- WRAP's operands are invalid: WRAP > 0 and COL >= WRAP (R203). -/
def WrapParamBad (s : State) : Prop := 0 < s.wrap.toNat ∧ s.wrap.toNat ≤ s.col.toNat

/-- The word column of the opcode map (30_encoding.md R90). -/
def rowWord : Instr → Word
  | .nop => 0x00000000
  | .tenc => 0x00000001
  | .tencz => 0x00000101
  | .tdec => 0x00000002
  | .enc => 0x00000003
  | .encz => 0x00000103
  | .dec => 0x00000004
  | .decz => 0x00000104
  | .benc => 0x00000005
  | .bdec => 0x00000006
  | .bencb => 0x00000007
  | .bdecb => 0x00000008
  | .filt85 => 0x00000009
  | .filt85z => 0x00000109
  | .filtbin => 0x0000000A
  | .wrap => 0x0000000B

/-- The words that are illegal on an instance with parameters `p` (R93). -/
def IllegalWord (p : Params) (w : Word) : Prop :=
  w.toNat / 512 ≠ 0 ∨ 0x0C ≤ w.toNat % 256 ∨ (w.toNat / 256 % 2 = 1 ∧ w.toNat % 256 ∉ [0x01, 0x03, 0x04, 0x09]) ∨
  (p.hasBits = false ∧ 0x05 ≤ w.toNat % 256 ∧ w.toNat % 256 ≤ 0x08)

/-- A host access that performs a soft reset (R26, R227). -/
def SoftResetAccess (a : Access) : Prop := ∃ v : Word, a = .w32 0x08 v ∧ v.getLsbD 1 = true

/-- Every register reads its reset value, no command is in flight and IRQ is low (R40). -/
structure RegistersAtReset (t : State) : Prop where
  id : t.regValue .ID = 0x42383501
  cap : t.regValue .CAP = capWord t.params
  zero : ∀ r, r ≠ .ID → r ≠ .CAP → t.regValue r = 0
  inFlight : t.inFlight = none
  irq : t.irq = false

/-- `s` with the value `v` returned to the host for the read `a`, and nothing else changed. -/
def State.answered (s : State) (a : Access) (v : Word) : State :=
  { s with replies := { access := a, value := v } :: s.replies }

/-- How many bytes before offset `i` are not 'z'. -/
def nonZBefore (l : List Byte) (i : Nat) : Nat := ((l.take i).filter fun b => b != chZ).length

/-- The input holds a misplaced 'z' at offset `i`, and none before it (R202): 1 to 4 characters of an incomplete group
are pending there, and none at any earlier 'z'. -/
def FirstMisplacedZ (l : List Byte) (i : Nat) : Prop :=
  i < l.length ∧ l[i]? = some chZ ∧ nonZBefore l i % 5 ≠ 0 ∧ ∀ j, j < i → l[j]? = some chZ → nonZBefore l j % 5 = 0

/-- The number of complete all-zero tuples (R123). -/
def zeroTuples (l : List Byte) : Nat :=
  ((List.range (l.length / 4)).filter fun t => (l.drop (4 * t)).take 4 == [0, 0, 0, 0]).length

/-- The bytes a decode chunk gives, if it does not fail. -/
def decOut (zf : Bool) (l : List Byte) : List Byte :=
  match decChunk l zf with
  | .ok c => c.out
  | .error _ => []

/-- A stream wrapped chunk by chunk, the column carried from one call to the next (R182, R237): the concatenated outputs,
the final column and the newlines inserted in all. -/
def wrapStream (w : Nat) : Nat → List (List Byte) → List Byte × Nat × Nat
  | c, [] => ([], c, 0)
  | c, l :: ls =>
    let r := wrapText l w c
    let rs := wrapStream w r.2.1 ls
    (r.1 ++ rs.1, rs.2.1, r.2.2 + rs.2.2)

/-- The two states agree on every operand the command reads (30_encoding.md R89), on the parameters, and on the free
values still to come. -/
def OperandsAgree (s t : State) : Instr → Prop
  | .nop => True
  | .tenc | .tencz => t.data = s.data
  | .benc => t.data.setWidth 8 = (s.data.setWidth 8 : Byte)
  | .tdec => ∀ i, i < 5 → t.xByte i = s.xByte i
  | .bdec => ∀ i, i < 8 → t.xByte i = s.xByte i
  | .enc | .encz | .dec | .decz | .bencb | .bdecb =>
    t.params = s.params ∧ t.draws = s.draws ∧ t.src = s.src ∧ t.len = s.len ∧ t.dst = s.dst ∧
    ∀ a, s.src.toNat ≤ a → a < s.src.toNat + s.len.toNat → Memory.read? t.buf a = Memory.read? s.buf a
  | .filt85 | .filt85z | .filtbin =>
    t.params = s.params ∧ t.draws = s.draws ∧ t.src = s.src ∧ t.len = s.len ∧
    ∀ a, s.src.toNat ≤ a → a < s.src.toNat + s.len.toNat → Memory.read? t.buf a = Memory.read? s.buf a
  | .wrap =>
    t.params = s.params ∧ t.draws = s.draws ∧ t.src = s.src ∧ t.len = s.len ∧ t.dst = s.dst ∧
    t.wrap = s.wrap ∧ t.col = s.col ∧
    ∀ a, s.src.toNat ≤ a → a < s.src.toNat + s.len.toNat → Memory.read? t.buf a = Memory.read? s.buf a

/-- The two states agree on everything a success of the command writes (R41), and on STATUS.ERR and ERRINFO. -/
structure ResultsAgree (i : Instr) (s t : State) : Prop where
  err : t.status.err = s.status.err
  errinfo : t.errinfo = s.errinfo
  counts : i ≠ .nop → t.olen = s.olen ∧ t.aux = s.aux
  data : i ∈ [.tdec, .bdec] → t.data = s.data
  x : i ∈ [.tenc, .tencz, .benc] → t.x0 = s.x0 ∧ t.x1 = s.x1
  col : i = .wrap → t.col = s.col
  atDst : i ∈ [.enc, .encz, .dec, .decz, .bencb, .bdecb, .wrap] → s.status.err = .none →
    ∀ a, s.dst.toNat ≤ a → a < s.dst.toNat + s.olen.toNat → Memory.read? t.buf a = Memory.read? s.buf a
  atSrc : i ∈ [.filt85, .filt85z, .filtbin] → s.status.err = .none →
    ∀ a, s.src.toNat ≤ a → a < s.src.toNat + s.len.toNat → Memory.read? t.buf a = Memory.read? s.buf a

end Sys2Proof.Machine
end

