-- ==== Sys2Proof/Certificates/Slice0/Obligations.lean ====
section
/-! DEFINITION. The statements for the provers. Each docstring names the rule of spec/ it formalises; none rests on the
value of a free value. -/

open Sys2Proof Sys2Proof.Machine

/-! ### Command words -/

/-- R90, R91: the encoder gives each command the word of its row, and the decoder reads a word as a command exactly when
the command exists on the instance and the word is its row's word; so decoding an encoded command gives it back, and "no
other word selects the operation". R96: the assembler gives each mnemonic its row's word, and accepts no other spelling. -/
def Obligations.DecoderSelectsExactlyTheTableRows : Prop :=
  (∀ i, encode i = rowWord i) ∧
  (∀ (p : Params) (w : Word) (i : Instr), decode p w = .ok i ↔ i.wf p = true ∧ w = encode i) ∧
  ∀ (m : String) (w : Word), assemble m = some w ↔ ∃ i, mnemonic i = m ∧ rowWord i = w

/-- R90: words written out bit by bit from the opcode map (OP at 7:0, Z at 8) decode to the commands they stand for. -/
def Obligations.WrittenWordsDecode : Prop :=
  decode Params.default 0b00000000000000000000000000000000 = .ok .nop ∧
  decode Params.default 0b00000000000000000000000100000001 = .ok .tencz ∧
  decode Params.default 0b00000000000000000000000000000011 = .ok .enc ∧
  decode Params.default 0b00000000000000000000000100000100 = .ok .decz ∧
  decode Params.default 0b00000000000000000000000000001000 = .ok .bdecb ∧
  decode Params.default 0b00000000000000000000000100001001 = .ok .filt85z ∧
  decode Params.default 0b00000000000000000000000000001011 = .ok .wrap

/-- R91, R93: the decoder rejects exactly the illegal words, so it is total. -/
def Obligations.DecoderRejectsExactlyTheIllegalWords : Prop :=
  ∀ (p : Params) (w : Word), (∃ e, decode p w = .error e) ↔ IllegalWord p w

/-- R93, R199: an illegal word is accepted like any other; its execute step completes with error ILLEGAL, code 1, ERRINFO
0, and no other state changes. -/
def Obligations.IllegalWordCompletesWithIllegal : Prop :=
  ErrCode.code .illegal = 1 ∧
  ∀ (s : State) (w : Word), s.status.busy = false → IllegalWord s.params w →
    ∃ t u, s.bus (.w32 0x10 w) = t ∧ t.cmd = w ∧ t.status.busy = true ∧ t.status.done = false ∧
      t.execute = .next u ∧ FailedWith t u .illegal 0

/-! ### Steps -/

/-- R75, R91: when the turn is the unit's (whose turn it is, is the model's schedule, log 1) and a command is in flight, the
step is its execute step, with the schedule moved on by one; and when the latched word decodes to `i`, that is `exec i`. -/
def Obligations.StepRunsDecodedCommand : Prop :=
  ∀ s : State, s.nextTurn = .unit → s.status.busy = true →
    step s = s.endTurn.execute ∧ ∀ i, decode s.params s.cmd = .ok i → step s = exec i s.endTurn

/-- R75: when the turn is the host's (log 1), the next bus access of its script (log 2) takes effect, once. -/
def Obligations.HostTurnTakesOneAccess : Prop :=
  ∀ (s : State) (a : Access) (rest : List HostAction), s.nextTurn = .host → s.script = .access a :: rest →
    step s = .next (State.bus { s.endTurn with script := rest } a)

/-- R98: a round of `wait` reads STATUS, and the host goes round again exactly while the BUSY bit of the value read is 1.
Nothing else changes. One round is one step of the model (log 1, log 2). -/
def Obligations.WaitReadsStatusUntilIdle : Prop :=
  ∀ (s : State) (rest : List HostAction), s.nextTurn = .host → s.script = .wait :: rest →
    step s = .next (State.answered { s.endTurn with script := if s.status.busy then s.script else rest }
      (.r32 0x0C) s.status.word)

/-- R195: "The unit never stops, hangs or waits for the host in the middle of a command": every step of every state
answers a next state, so no fault and no refusal is ever met. -/
def Obligations.EveryStepAnswers : Prop := ∀ s : State, ∃ t, step s = .next t

/-- R195, R196: every command, in every state, ends in a completion: BUSY is 0 and DONE is 1. -/
def Obligations.EveryCommandCompletes : Prop :=
  ∀ (i : Instr) (s : State), ∃ t, exec i s = .next t ∧ t.status.busy = false ∧ t.status.done = true

/-- R241: while no reset intervenes, the unit's execute step for the command in flight comes, after at most as many steps
as the schedule still has turns (the schedule is the model's form of the latency, log 1). -/
def Obligations.AcceptedCommandIsExecuted : Prop :=
  ∀ s : State, s.status.busy = true → Turn.powerOn ∉ s.turns →
    (∀ a, HostAction.access a ∈ s.script → ¬ SoftResetAccess a) →
    ∃ k t, k ≤ s.turns.length ∧ Sys2Proof.core.run k s = .next t ∧
      t.status.busy = true ∧ t.cmd = s.cmd ∧ t.nextTurn = .unit

/-- R27, R28: DONE rises only at a completion, which ends the command in flight; BUSY rises only when the host's 32-bit
write to CMD is accepted, which latches the word written and clears DONE and ERR. -/
def Obligations.DoneAndBusyRiseOnlyAsSpecified : Prop :=
  ∀ s t : State, step s = .next t →
    (s.status.done = false → t.status.done = true →
      s.nextTurn = .unit ∧ s.status.busy = true ∧ t.status.busy = false) ∧
    (s.status.busy = false → t.status.busy = true →
      s.nextTurn = .host ∧ ∃ v rest, s.script = .access (.w32 0x10 v) :: rest ∧ t.cmd = v ∧
        t.status.done = false ∧ t.status.err = .none ∧ t.status.ovr = s.status.ovr)

/-! ### The invariant, and reset -/

/-- R8, R27, R34, R36, R60, R198: whatever agent acts, a step keeps the invariant, in which BUF's canonical form is the
model's own (log 5). -/
def Obligations.StepKeepsInvariant : Prop := ∀ s t : State, s.Inv → step s = .next t → t.Inv

/-- The machine after power-on reset meets the invariant. -/
def Obligations.ResetMeetsInvariant : Prop := State.reset.Inv

/-- R25: the parameters, which the model holds in State (log 3), and so CAP, are constant for an instance. -/
def Obligations.ParametersNeverChange : Prop := ∀ s t : State, step s = .next t → t.params = s.params

/-- R226, R40: power-on reset sets every register to its reset value, with no command in flight, and leaves every BUF byte
unwritten; State.reset is such a state. The reset input is a turn of the model's schedule (log 1, log 7). -/
def Obligations.PowerOnResetValues : Prop :=
  (RegistersAtReset State.reset ∧ ∀ a, Memory.read? State.reset.buf a = none) ∧
  ∀ (s : State) (rest : List Turn), s.turns = .powerOn :: rest →
    ∃ t, step s = .next t ∧ RegistersAtReset t ∧ t.params = s.params ∧ ∀ a, Memory.read? t.buf a = none

/-- R227: a soft reset, taken busy or not, sets every register to its reset value and abandons the command in flight
without a completion: DONE stays 0 and no interrupt follows. BUF is unchanged if BUSY was 0, and every byte is unspecified
(holds no value, as in R226) if it was 1. CAP is as before. -/
def Obligations.SoftResetValues : Prop :=
  ∀ (s : State) (a : Access), SoftResetAccess a →
    ∃ t, s.bus a = t ∧ RegistersAtReset t ∧ t.status.done = false ∧ t.params = s.params ∧
      (s.status.busy = false → SameBuf s t) ∧ (s.status.busy = true → ∀ x, Memory.read? t.buf x = none)

/-! ### Host accesses -/

/-- R22, R24, R26, R28 to R32, R34 to R36: what reading each register returns while idle (CAP and STATUS have statements
of their own), and that the read changes nothing. -/
def Obligations.RegisterReadsWhileIdle : Prop :=
  ∀ s : State, s.status.busy = false →
    s.bus (.r32 0x00) = s.answered (.r32 0x00) 0x42383501 ∧
    s.bus (.r32 0x08) = s.answered (.r32 0x08) (if s.ctrl.ie then 1 else 0) ∧
    s.bus (.r32 0x10) = s.answered (.r32 0x10) s.cmd ∧
    s.bus (.r32 0x14) = s.answered (.r32 0x14) s.src ∧
    s.bus (.r32 0x18) = s.answered (.r32 0x18) s.dst ∧
    s.bus (.r32 0x1C) = s.answered (.r32 0x1C) s.len ∧
    s.bus (.r32 0x20) = s.answered (.r32 0x20) s.data ∧
    s.bus (.r32 0x24) = s.answered (.r32 0x24) s.x0 ∧
    s.bus (.r32 0x28) = s.answered (.r32 0x28) s.x1 ∧
    s.bus (.r32 0x2C) = s.answered (.r32 0x2C) s.wrap ∧
    s.bus (.r32 0x30) = s.answered (.r32 0x30) s.col ∧
    s.bus (.r32 0x34) = s.answered (.r32 0x34) s.olen ∧
    s.bus (.r32 0x38) = s.answered (.r32 0x38) s.aux ∧
    s.bus (.r32 0x3C) = s.answered (.r32 0x3C) s.errinfo

/-- R77: reads while busy. ID, CAP, CTRL, STATUS, CMD, SRC, DST, LEN and WRAP return their current values; the other
registers and every BUF byte return some value, which is unspecified (the counter of free values moves on, log 4); no read
changes the block's state. -/
def Obligations.ReadsWhileBusy : Prop :=
  ∀ s : State, s.status.busy = true →
    s.bus (.r32 0x00) = s.answered (.r32 0x00) 0x42383501 ∧
    s.bus (.r32 0x04) = s.answered (.r32 0x04) (capWord s.params) ∧
    s.bus (.r32 0x08) = s.answered (.r32 0x08) (if s.ctrl.ie then 1 else 0) ∧
    s.bus (.r32 0x0C) = s.answered (.r32 0x0C) s.status.word ∧
    s.bus (.r32 0x10) = s.answered (.r32 0x10) s.cmd ∧
    s.bus (.r32 0x14) = s.answered (.r32 0x14) s.src ∧
    s.bus (.r32 0x18) = s.answered (.r32 0x18) s.dst ∧
    s.bus (.r32 0x1C) = s.answered (.r32 0x1C) s.len ∧
    s.bus (.r32 0x2C) = s.answered (.r32 0x2C) s.wrap ∧
    (∀ o, o ∈ [0x20, 0x24, 0x28, 0x30, 0x34, 0x38, 0x3C] →
      ∃ v d, s.bus (.r32 o) = { s.answered (.r32 o) v with draws := d }) ∧
    (∀ a, a < s.params.bufBytes → a < 2 ^ 24 →
      ∃ (b : Byte) (d : Nat), s.bus (.r8 (BitVec.ofNat 25 (0x1000000 + a))) =
        { s.answered (.r8 (BitVec.ofNat 25 (0x1000000 + a))) (b.setWidth 32) with draws := d })

/-- R25: CAP reports HAS_BITS at bit 0, log2(LANES) at 5:4, log2(BUF_BYTES) at 15:8, and 0 in every other bit, busy or
not. -/
def Obligations.CapReportsTheParameters : Prop :=
  ∀ s : State, s.params.wf = true → ∃ v : Word, s.bus (.r32 0x04) = s.answered (.r32 0x04) v ∧
    v.toNat % 2 = s.params.hasBits.toNat ∧ v.toNat / 2 % 8 = 0 ∧ 2 ^ (v.toNat / 16 % 4) = s.params.lanes ∧
    v.toNat / 64 % 4 = 0 ∧ 2 ^ (v.toNat / 256 % 256) = s.params.bufBytes ∧ v.toNat / 65536 = 0

/-- R27, R198: STATUS as read, busy or not: BUSY at bit 0, DONE at 1, OVR at 2, the error code at 11:8, and 0 in every
other bit; the codes are those of R198. -/
def Obligations.StatusReadsItsFields : Prop :=
  (ErrCode.code .none = 0 ∧ ErrCode.code .illegal = 1 ∧ ErrCode.code .bounds = 2 ∧ ErrCode.code .overlap = 3 ∧
    ErrCode.code .zpos = 4 ∧ ErrCode.code .param = 5) ∧
  ∀ s : State, ∃ v : Word, s.bus (.r32 0x0C) = s.answered (.r32 0x0C) v ∧
    v.toNat = s.status.busy.toNat + 2 * s.status.done.toNat + 4 * s.status.ovr.toNat + 256 * s.status.err.code.toNat

/-- R23, R29 to R32: a write of any value to SRC, DST, LEN, DATA, X0, X1, WRAP or COL while idle stores that value there
and changes nothing else; a write to ID, CAP, OLEN, AUX or ERRINFO is ignored, busy or not, and never sets OVR. -/
def Obligations.RegisterWrites : Prop :=
  ∀ (s : State) (v : Word),
    (s.status.busy = false →
      s.bus (.w32 0x14 v) = { s with src := v } ∧ s.bus (.w32 0x18 v) = { s with dst := v } ∧
      s.bus (.w32 0x1C v) = { s with len := v } ∧ s.bus (.w32 0x20 v) = { s with data := v } ∧
      s.bus (.w32 0x24 v) = { s with x0 := v } ∧ s.bus (.w32 0x28 v) = { s with x1 := v } ∧
      s.bus (.w32 0x2C v) = { s with wrap := v } ∧ s.bus (.w32 0x30 v) = { s with col := v }) ∧
    (s.bus (.w32 0x00 v) = s ∧ s.bus (.w32 0x04 v) = s ∧ s.bus (.w32 0x34 v) = s ∧ s.bus (.w32 0x38 v) = s ∧
      s.bus (.w32 0x3C v) = s)

/-- R28: a CMD write while idle is accepted: CMD takes the word, BUSY is set, DONE and ERR are cleared, OVR and all else
are unchanged. -/
def Obligations.CommandWriteIsAccepted : Prop :=
  ∀ (s : State) (v : Word), s.status.busy = false →
    s.bus (.w32 0x10 v) =
      { s with cmd := v, status := { busy := true, done := false, ovr := s.status.ovr, err := .none } }

/-- R76: a write to CMD, SRC, DST, LEN, DATA, X0, X1, WRAP, COL or a BUF byte while busy is dropped and sets OVR, and
changes nothing else; CTRL and STATUS writes are accepted. -/
def Obligations.WritesWhileBusyAreDropped : Prop :=
  ∀ (s : State) (v : Word), s.status.busy = true →
    (∀ o, o ∈ [0x10, 0x14, 0x18, 0x1C, 0x20, 0x24, 0x28, 0x2C, 0x30] →
      s.bus (.w32 o v) = { s with status := { s.status with ovr := true } }) ∧
    (∀ a (b : Byte), a < s.params.bufBytes → a < 2 ^ 24 →
      s.bus (.w8 (BitVec.ofNat 25 (0x1000000 + a)) b) = { s with status := { s.status with ovr := true } }) ∧
    (v.getLsbD 1 = false → s.bus (.w32 0x08 v) = { s with ctrl := { ie := v.getLsbD 0 } }) ∧
    s.bus (.w32 0x0C v) =
      { s with status := { s.status with done := s.status.done && !v.getLsbD 1, ovr := s.status.ovr && !v.getLsbD 2 } }

/-- R23 (W1C), R27, R206, R210: a STATUS write, at any time, clears DONE and OVR where it writes 1, leaves them where it
writes 0, and changes nothing else: the host's acknowledgement restores nothing. -/
def Obligations.StatusWriteClearsOnes : Prop :=
  ∀ (s : State) (v : Word),
    s.bus (.w32 0x0C v) =
      { s with status := { busy := s.status.busy, done := s.status.done && !v.getLsbD 1,
                           ovr := s.status.ovr && !v.getLsbD 2, err := s.status.err } }

/-- R26, R228: CTRL, busy or not: a write with bit 1 = 0 sets IE to bit 0 and changes nothing else; a write with bit 1 = 1
performs the soft reset and leaves IE 0; a read returns IE in bit 0 and 0 elsewhere. -/
def Obligations.ControlRegister : Prop :=
  ∀ (s : State) (v : Word),
    (v.getLsbD 1 = false → s.bus (.w32 0x08 v) = { s with ctrl := { ie := v.getLsbD 0 } }) ∧
    (v.getLsbD 1 = true → RegistersAtReset (s.bus (.w32 0x08 v)) ∧ (s.bus (.w32 0x08 v)).ctrl.ie = false) ∧
    s.bus (.r32 0x08) = s.answered (.r32 0x08) (if s.ctrl.ie then 1 else 0)

/-- R68, R69: malformed accesses, busy or not: an 8- or 16-bit access, or one at an offset that is no multiple of 4, in
the register window; a 16- or 32-bit access in the BUF window. A write is ignored, with no side effect and no OVR; a read
returns 0. -/
def Obligations.MalformedAccesses : Prop :=
  ∀ (s : State) (o : Offset) (b : Byte) (h : BitVec 16) (v : Word),
    (o.toNat < 0x100 →
      s.bus (.w8 o b) = s ∧ s.bus (.w16 o h) = s ∧
      s.bus (.r8 o) = s.answered (.r8 o) 0 ∧ s.bus (.r16 o) = s.answered (.r16 o) 0 ∧
      (o.toNat % 4 ≠ 0 → s.bus (.w32 o v) = s ∧ s.bus (.r32 o) = s.answered (.r32 o) 0)) ∧
    (0x1000000 ≤ o.toNat → o.toNat < 0x1000000 + s.params.bufBytes →
      s.bus (.w16 o h) = s ∧ s.bus (.w32 o v) = s ∧
      s.bus (.r16 o) = s.answered (.r16 o) 0 ∧ s.bus (.r32 o) = s.answered (.r32 o) 0)

/-- R73: reserved offsets (0x40 to 0xFF of the register window, 0x100 to 0xFFFFFF, and the BUF window from BUF_BYTES on),
at every width, busy or not: a read returns 0, and a write is ignored with no side effect. -/
def Obligations.ReservedOffsets : Prop :=
  ∀ (s : State) (o : Offset) (b : Byte) (h : BitVec 16) (v : Word),
    0x40 ≤ o.toNat → (o.toNat < 0x1000000 ∨ 0x1000000 + s.params.bufBytes ≤ o.toNat) →
      s.bus (.w8 o b) = s ∧ s.bus (.w16 o h) = s ∧ s.bus (.w32 o v) = s ∧
      s.bus (.r8 o) = s.answered (.r8 o) 0 ∧ s.bus (.r16 o) = s.answered (.r16 o) 0 ∧
      s.bus (.r32 o) = s.answered (.r32 o) 0

/-- R60, R61, R69, R226: byte accesses to BUF while idle, at any address: the written byte is read back, no other byte and
nothing else of the block changes; a byte that nothing has written returns some value (log 4, log 5). -/
def Obligations.BufferByteAccesses : Prop :=
  ∀ (s : State) (a : Nat) (b : Byte), s.status.busy = false → a < s.params.bufBytes → a < 2 ^ 24 →
    (∃ m, s.bus (.w8 (BitVec.ofNat 25 (0x1000000 + a)) b) = { s with buf := m } ∧
      ∀ x, Memory.read? m x = if x = a then some b else Memory.read? s.buf x) ∧
    (Memory.read? s.buf a = some b →
      s.bus (.r8 (BitVec.ofNat 25 (0x1000000 + a))) =
        s.answered (.r8 (BitVec.ofNat 25 (0x1000000 + a))) (b.setWidth 32)) ∧
    (Memory.read? s.buf a = none →
      ∃ (c : Byte) (d : Nat), s.bus (.r8 (BitVec.ofNat 25 (0x1000000 + a))) =
        { s.answered (.r8 (BitVec.ofNat 25 (0x1000000 + a))) (c.setWidth 32) with draws := d })

/-- R39, R207: IRQ is the level CTRL.IE AND STATUS.DONE: a completion raises it exactly when IE is set; it is cleared by
writing 1 to DONE, by the acceptance of the next command, by writing IE = 0, and by either reset. -/
def Obligations.InterruptLine : Prop :=
  ∀ s : State,
    s.irq = (s.ctrl.ie && s.status.done) ∧
    (∀ i t, exec i s = .next t → t.irq = s.ctrl.ie) ∧
    (∀ v : Word, v.getLsbD 1 = true → (s.bus (.w32 0x0C v)).irq = false) ∧
    (∀ v : Word, s.status.busy = false → (s.bus (.w32 0x10 v)).irq = false) ∧
    (∀ v : Word, v.getLsbD 0 = false → (s.bus (.w32 0x08 v)).irq = false) ∧
    (∀ v : Word, v.getLsbD 1 = true → (s.bus (.w32 0x08 v)).irq = false) ∧
    s.powerOnReset.irq = false

/-- R76: "a command's operands and input bytes are exactly those that stood at its acceptance": whatever accesses the host
makes while a command is in flight, short of a soft reset, the command, its operands and BUF stand as they were. -/
def Obligations.OperandsStandWhileInFlight : Prop :=
  ∀ (l : List Access) (s : State), s.status.busy = true → (∀ a, a ∈ l → ¬ SoftResetAccess a) →
    let t := l.foldl State.bus s
    t.inFlight = some s.cmd ∧ t.params = s.params ∧ t.src = s.src ∧ t.dst = s.dst ∧ t.len = s.len ∧
    t.wrap = s.wrap ∧ SameData s t ∧ SameBuf s t

/-! ### Tuple codec -/

/-- R13, R64: be32 is the big-endian value of four bytes, and bytesBe32 its inverse, most significant byte first. -/
def Obligations.BigEndianTuples : Prop :=
  (∀ a b c d : Byte,
    (be32 a b c d).toNat = a.toNat * 2 ^ 24 + b.toNat * 2 ^ 16 + c.toNat * 2 ^ 8 + d.toNat ∧
    bytesBe32 (be32 a b c d) = [a, b, c, d]) ∧
  ∀ v : Word, bytesBe32 v =
    [BitVec.ofNat 8 (v.toNat / 2 ^ 24), BitVec.ofNat 8 (v.toNat / 2 ^ 16), BitVec.ofNat 8 (v.toNat / 2 ^ 8),
      BitVec.ofNat 8 v.toNat]

/-- R33: byte i of X, in emission order, is byte i of the 64-bit big-endian value X0:X1. -/
def Obligations.VectorBytesAreBigEndian : Prop :=
  ∀ (s : State) (i : Nat), i < 8 →
    (s.xByte i).toNat = (s.x0.toNat * 2 ^ 32 + s.x1.toNat) / 2 ^ (8 * (7 - i)) % 256

/-- R105, R107: enc85 gives the five base-85 digits of the value, most significant first, each offset by '!'; every byte is
in '!'..'u', and the first in '!'..'s'. -/
def Obligations.EncodedTupleDigits : Prop :=
  ∀ v : Word, ∃ d0 d1 d2 d3 d4 : Nat,
    d0 ≤ 82 ∧ d1 ≤ 84 ∧ d2 ≤ 84 ∧ d3 ≤ 84 ∧ d4 ≤ 84 ∧
    v.toNat = d0 * 85 ^ 4 + d1 * 85 ^ 3 + d2 * 85 ^ 2 + d3 * 85 + d4 ∧
    enc85 v = [BitVec.ofNat 8 (d0 + 0x21), BitVec.ofNat 8 (d1 + 0x21), BitVec.ofNat 8 (d2 + 0x21),
      BitVec.ofNat 8 (d3 + 0x21), BitVec.ofNat 8 (d4 + 0x21)] ∧
    ∀ b, b ∈ enc85 v → 0x21 ≤ b.toNat ∧ b.toNat ≤ 0x75

/-- R106: dec85 is the weighted sum of the five digits modulo 2^32, for every byte value. -/
def Obligations.DecodedTupleFormula : Prop :=
  ∀ b0 b1 b2 b3 b4 : Byte,
    ((dec85 [b0, b1, b2, b3, b4]).toNat : Int) =
      (((b0.toNat : Int) - 0x21) * 85 ^ 4 + ((b1.toNat : Int) - 0x21) * 85 ^ 3 + ((b2.toNat : Int) - 0x21) * 85 ^ 2 +
        ((b3.toNat : Int) - 0x21) * 85 + ((b4.toNat : Int) - 0x21)) % 2 ^ 32

/-- R108: for every 32-bit v, `dec85(enc85(v)) = v`. -/
def Obligations.TupleRoundTrip : Prop := ∀ v : Word, dec85 (enc85 v) = v

/-- R109, R110: TENC and TENCZ, in every state. TENC places the five characters of DATA in X and zeros behind them, with
OLEN = 5; TENCZ does the same for a nonzero DATA, and for DATA = 0 places 'z' and zeros, with OLEN = 1. AUX is 0. DATA,
COL, BUF and all else are unchanged. -/
def Obligations.TupleEncodeCommands : Prop :=
  (∀ p, decode p 0x00000001 = .ok .tenc ∧ decode p 0x00000101 = .ok .tencz) ∧
  ∀ s : State,
    (∃ t, exec .tenc s = .next t ∧ Succeeded s t 5 0 ∧
      (∀ i, i < 5 → some (t.xByte i) = (enc85 s.data)[i]?) ∧ (∀ i, 5 ≤ i → i < 8 → t.xByte i = 0) ∧
      t.data = s.data ∧ t.col = s.col ∧ SameBuf s t) ∧
    (s.data ≠ 0 → ∃ t, exec .tencz s = .next t ∧ Succeeded s t 5 0 ∧
      (∀ i, i < 5 → some (t.xByte i) = (enc85 s.data)[i]?) ∧ (∀ i, 5 ≤ i → i < 8 → t.xByte i = 0) ∧
      t.data = s.data ∧ t.col = s.col ∧ SameBuf s t) ∧
    (s.data = 0 → ∃ t, exec .tencz s = .next t ∧ Succeeded s t 1 0 ∧
      t.xByte 0 = 0x7A ∧ (∀ i, 1 ≤ i → i < 8 → t.xByte i = 0) ∧
      t.data = s.data ∧ t.col = s.col ∧ SameBuf s t)

/-- R111, R204: TDEC, in every state: DATA is the decoded value of the characters in X bytes 0 to 4, whatever they are,
OLEN = 4, AUX = 0; X, COL, BUF and all else are unchanged. -/
def Obligations.TupleDecodeCommand : Prop :=
  (∀ p, decode p 0x00000002 = .ok .tdec) ∧
  ∀ s : State, ∃ t, exec .tdec s = .next t ∧ Succeeded s t 4 0 ∧
    t.data = dec85 [s.xByte 0, s.xByte 1, s.xByte 2, s.xByte 3, s.xByte 4] ∧
    t.x0 = s.x0 ∧ t.x1 = s.x1 ∧ t.col = s.col ∧ SameBuf s t

/-! ### Buffer codec -/

/-- R121: enc_chunk tuple by tuple: each complete tuple is 'z' if it is zero and the shorthand is on, else its five
characters; a final group of n < 4 bytes is zero-padded and gives its first n + 1 characters, never 'z', and the pad count
4 - n. -/
def Obligations.EncodeChunkTupleByTuple : Prop :=
  ∀ zf : Bool,
    encChunk [] zf = { out := [], aux := 0 } ∧
    (∀ a b c d rest,
      (encChunk (a :: b :: c :: d :: rest) zf).out =
        (if zf = true ∧ a = 0 ∧ b = 0 ∧ c = 0 ∧ d = 0 then [0x7A] else enc85 (be32 a b c d)) ++ (encChunk rest zf).out ∧
      (encChunk (a :: b :: c :: d :: rest) zf).aux = (encChunk rest zf).aux) ∧
    (∀ l : List Byte, 0 < l.length → l.length < 4 →
      encChunk l zf =
        { out := (enc85 (be32 (l.getD 0 0) (l.getD 1 0) (l.getD 2 0) 0)).take (l.length + 1), aux := 4 - l.length })

/-- R122, R123, R41: ENC and ENCZ complete whenever both ranges lie in BUF and share no byte: the chunk's characters stand
at DST and no other byte of BUF changes, OLEN is their count, AUX the pad count; DATA, X, COL and all else are
unchanged. -/
def Obligations.EncodeCommandsComplete : Prop :=
  (∀ p, decode p 0x00000003 = .ok .enc ∧ decode p 0x00000103 = .ok .encz) ∧
  ∀ s : State, s.params.wf = true →
    (TransferRangesOk s (encChunk s.input false).out.length →
      ∃ t, exec .enc s = .next t ∧ TransferDone s t (encChunk s.input false) ∧ t.col = s.col) ∧
    (TransferRangesOk s (encChunk s.input true).out.length →
      ∃ t, exec .encz s = .next t ∧ TransferDone s t (encChunk s.input true) ∧ t.col = s.col)

/-- R124: dec_chunk group by group. A group of five digit bytes gives the four bytes of its value; with the shorthand on, a
'z' at a group boundary gives four zero bytes, and one behind 1 to 4 pending characters fails at its offset; a final group
of n < 5 is padded with 'u' and gives n - 1 bytes and the pad count 5 - n. -/
def Obligations.DecodeChunkGroupByGroup : Prop :=
  ∀ zf : Bool,
    decChunk [] zf = .ok { out := [], aux := 0 } ∧
    (∀ b0 b1 b2 b3 b4 rest, (zf = true → (0x7A : Byte) ∉ [b0, b1, b2, b3, b4]) →
      decChunk (b0 :: b1 :: b2 :: b3 :: b4 :: rest) zf =
        match decChunk rest zf with
        | .ok c => .ok { c with out := bytesBe32 (dec85 [b0, b1, b2, b3, b4]) ++ c.out }
        | .error i => .error (i + 5)) ∧
    (∀ rest, decChunk (0x7A :: rest) true =
        match decChunk rest true with
        | .ok c => .ok { c with out := [0, 0, 0, 0] ++ c.out }
        | .error i => .error (i + 1)) ∧
    (∀ g rest, 0 < g.length → g.length < 5 → (0x7A : Byte) ∉ g →
      decChunk (g ++ 0x7A :: rest) true = .error g.length) ∧
    (∀ l : List Byte, 0 < l.length → l.length < 5 → (zf = true → (0x7A : Byte) ∉ l) →
      decChunk l zf =
        .ok { out := (bytesBe32 (dec85 (l ++ List.replicate (5 - l.length) 0x75))).take (l.length - 1),
              aux := 5 - l.length })

/-- R125, R126, R41: DEC always, and DECZ on input with no misplaced 'z', complete whenever both ranges lie in BUF and
share no byte: the decoded bytes stand at DST and no other byte of BUF changes, OLEN is their count, AUX the pad count;
DATA, X, COL and all else are unchanged. Bytes outside the alphabet are no error (R204). -/
def Obligations.DecodeCommandsComplete : Prop :=
  (∀ p, decode p 0x00000004 = .ok .dec ∧ decode p 0x00000104 = .ok .decz) ∧
  ∀ s : State, s.params.wf = true →
    (∃ c, decChunk s.input false = .ok c ∧ (TransferRangesOk s c.out.length →
      ∃ t, exec .dec s = .next t ∧ TransferDone s t c ∧ t.col = s.col)) ∧
    ((∀ i, ¬ FirstMisplacedZ s.input i) → ∃ c, decChunk s.input true = .ok c ∧ (TransferRangesOk s c.out.length →
      ∃ t, exec .decz s = .next t ∧ TransferDone s t c ∧ t.col = s.col))

/-- R202, R126: DECZ fails with ZPOS, ERRINFO the offset from SRC of the first misplaced 'z', when the source range lies in
BUF and the input holds one; only STATUS, OLEN, AUX and ERRINFO change. -/
def Obligations.MisplacedZIsReported : Prop :=
  (∀ l i, decChunk l true = .error i ↔ FirstMisplacedZ l i) ∧
  ∀ (s : State) (i : Nat), s.src.toNat + s.len.toNat ≤ s.params.bufBytes → FirstMisplacedZ s.input i →
    ∃ t, exec .decz s = .next t ∧ FailedWith s t .zpos (BitVec.ofNat 32 i) ∧ i < s.len.toNat

/-- R127: the output lengths of ENC, ENCZ, DEC and DECZ. -/
def Obligations.OutputLengths : Prop :=
  ∀ l : List Byte,
    (encChunk l false).out.length = l.length + (l.length + 3) / 4 ∧
    (encChunk l false).out.length + (encChunk l false).aux = 5 * ((l.length + 3) / 4) ∧
    (encChunk l true).out.length + 4 * zeroTuples l = l.length + (l.length + 3) / 4 ∧
    (∀ c, decChunk l false = .ok c → c.out.length = 4 * (l.length / 5) + (l.length % 5 - 1) ∧
      c.out.length + c.aux = 4 * ((l.length + 4) / 5)) ∧
    (∀ c, decChunk l true = .ok c →
      c.out.length = 4 * (l.length - nonZBefore l l.length) + 4 * (nonZBefore l l.length / 5) +
        (nonZBefore l l.length % 5 - 1))

/-- R128: chunking. Encoding in chunks, each but the last a multiple of 4 long, gives the encoding of the whole; decoding
in chunks without the shorthand, each but the last a multiple of 5 long, gives the decoding of the whole, and so does
decoding with it when each chunk but the last ends at a group boundary, which AUX = 0 shows. After a chunk that ends with
AUX = P > 0 the whole is decoded by putting its last 5 - P input bytes before the next chunk and discarding its last 4 - P
output bytes. -/
def Obligations.ChunksConcatenate : Prop :=
  (∀ (zf : Bool) (cs : List (List Byte)) (l : List Byte), (∀ c, c ∈ cs → c.length % 4 = 0) →
    (encChunk (cs.flatten ++ l) zf).out = (cs.map fun c => (encChunk c zf).out).flatten ++ (encChunk l zf).out ∧
    (encChunk (cs.flatten ++ l) zf).aux = (encChunk l zf).aux) ∧
  (∀ (cs : List (List Byte)) (l : List Byte) (cl : Chunk), (∀ c, c ∈ cs → c.length % 5 = 0) →
    decChunk l false = .ok cl →
    decChunk (cs.flatten ++ l) false = .ok { out := (cs.map (decOut false)).flatten ++ cl.out, aux := cl.aux }) ∧
  (∀ (cs : List (List Byte)) (l : List Byte) (cl : Chunk), (∀ c, c ∈ cs → ∃ d, decChunk c true = .ok d ∧ d.aux = 0) →
    decChunk l true = .ok cl →
    decChunk (cs.flatten ++ l) true = .ok { out := (cs.map (decOut true)).flatten ++ cl.out, aux := cl.aux }) ∧
  (∀ (a b : List Byte) (ca cb : Chunk), decChunk a true = .ok ca → 0 < ca.aux →
    decChunk (a.drop (a.length - (5 - ca.aux)) ++ b) true = .ok cb →
    decChunk (a ++ b) true = .ok { out := ca.out.take (ca.out.length - (4 - ca.aux)) ++ cb.out, aux := cb.aux })

/-- R129: the round trips over every byte list: DEC after ENC, DECZ after ENCZ and DECZ after ENC give the list back, with
the same AUX; ENC output never holds a 'z', and DEC after ENCZ output that holds one does not give the list back. -/
def Obligations.StreamRoundTrip : Prop :=
  ∀ l : List Byte,
    decChunk (encChunk l false).out false = .ok { out := l, aux := (encChunk l false).aux } ∧
    decChunk (encChunk l true).out true = .ok { out := l, aux := (encChunk l true).aux } ∧
    decChunk (encChunk l false).out true = .ok { out := l, aux := (encChunk l false).aux } ∧
    (0x7A : Byte) ∉ (encChunk l false).out ∧
    ((0x7A : Byte) ∈ (encChunk l true).out → ∀ c, decChunk (encChunk l true).out false = .ok c → c.out ≠ l)

/-! ### Bit-to-ASCII transform -/

/-- R145, R146: b2a gives '1' or '0' for bits 7 down to 0; a2b puts bit 0 of each character into bits 7 down to 0, for
every byte value; and `a2b(b2a(b)) = b`. -/
def Obligations.BitTransformFunctions : Prop :=
  (∀ b : Byte, (b2a b).length = 8 ∧ ∀ i, i < 8 → (b2a b)[i]? = some (BitVec.ofNat 8 (0x30 + (b.getLsbD (7 - i)).toNat))) ∧
  (∀ (l : List Byte) (i : Nat), l.length = 8 → i < 8 → (a2b l).getLsbD (7 - i) = (l.getD i 0).getLsbD 0) ∧
  ∀ b : Byte, a2b (b2a b) = b

/-- R148, R149: BENC and BDEC, in every state; their words exist exactly with HAS_BITS = 1. BENC places the eight
characters of DATA[7:0] in X, OLEN = 8; BDEC packs bit 0 of the eight bytes of X into DATA[7:0] and clears DATA[31:8],
OLEN = 1; AUX is 0 and all else is unchanged. -/
def Obligations.BitRegisterCommands : Prop :=
  (∀ p : Params, p.hasBits = true → decode p 0x00000005 = .ok .benc ∧ decode p 0x00000006 = .ok .bdec) ∧
  (∀ p : Params, p.hasBits = false → IllegalWord p 0x00000005 ∧ IllegalWord p 0x00000006) ∧
  ∀ s : State,
    (∃ t, exec .benc s = .next t ∧ Succeeded s t 8 0 ∧
      (∀ i, i < 8 → t.xByte i = if s.data.getLsbD (7 - i) then 0x31 else 0x30) ∧
      t.data = s.data ∧ t.col = s.col ∧ SameBuf s t) ∧
    (∃ t, exec .bdec s = .next t ∧ Succeeded s t 1 0 ∧
      (∀ i, i < 8 → t.data.getLsbD (7 - i) = (s.xByte i).getLsbD 0) ∧ t.data.toNat < 256 ∧
      t.x0 = s.x0 ∧ t.x1 = s.x1 ∧ t.col = s.col ∧ SameBuf s t)

/-- R150, R151, R41: BENCB and BDECB complete whenever both ranges lie in BUF and share no byte; their words exist exactly
with HAS_BITS = 1. BENCB writes the 8*LEN characters of its input bytes, bit 7 first, AUX = 0; BDECB writes one byte for
each complete group of eight, bit 0 of each, and AUX counts the bytes not consumed; no other byte of BUF and nothing else
changes. -/
def Obligations.BitBufferCommandsComplete : Prop :=
  (∀ p : Params, p.hasBits = true → decode p 0x00000007 = .ok .bencb ∧ decode p 0x00000008 = .ok .bdecb) ∧
  (∀ p : Params, p.hasBits = false → IllegalWord p 0x00000007 ∧ IllegalWord p 0x00000008) ∧
  ∀ s : State, s.params.wf = true →
    (TransferRangesOk s (8 * s.len.toNat) →
      ∃ t, exec .bencb s = .next t ∧ Succeeded s t (8 * s.len.toNat) 0 ∧
        (∀ j i, j < s.len.toNat → i < 8 → Memory.read? t.buf (s.dst.toNat + (8 * j + i)) =
          some (if (s.input.getD j 0).getLsbD (7 - i) then 0x31 else 0x30)) ∧
        SameBufOutside s t s.dst.toNat (8 * s.len.toNat) ∧ SameData s t) ∧
    (TransferRangesOk s (s.len.toNat / 8) →
      ∃ t, exec .bdecb s = .next t ∧ Succeeded s t (s.len.toNat / 8) (s.len.toNat % 8) ∧
        (∀ j, j < s.len.toNat / 8 → ∃ b, Memory.read? t.buf (s.dst.toNat + j) = some b ∧
          ∀ i, i < 8 → b.getLsbD (7 - i) = (s.input.getD (8 * j + i) 0).getLsbD 0) ∧
        SameBufOutside s t s.dst.toNat (s.len.toNat / 8) ∧ SameData s t)

/-- R150, R151 with R146: packing the expansion of any bytes gives them back, with nothing left over. -/
def Obligations.BitBufferRoundTrip : Prop := ∀ l : List Byte, bytesOfBits (bitsOfBytes l).out = { out := l, aux := 0 }

/-! ### Filters -/

/-- R165 to R169: FILT85, FILT85Z and FILTBIN, whenever the source range lies in BUF: the bytes their predicate keeps stand
at SRC in order, every other byte of BUF, those past the new length among them, is unchanged, OLEN counts the kept bytes
and AUX the removed ones, and all else is unchanged; otherwise BOUNDS with ERRINFO 0. -/
def Obligations.FilterCommands : Prop :=
  (∀ p, decode p 0x00000009 = .ok .filt85 ∧ decode p 0x00000109 = .ok .filt85z ∧ decode p 0x0000000A = .ok .filtbin) ∧
  ∀ (s : State) (i : Instr) (keep : Nat → Bool), filterOf i = some keep → s.params.wf = true →
    let k := s.input.filter fun b => keep b.toNat
    (s.src.toNat + s.len.toNat ≤ s.params.bufBytes →
      ∃ t, exec i s = .next t ∧ Succeeded s t k.length (s.len.toNat - k.length) ∧ WroteAt s t s.src.toNat k ∧
        SameData s t) ∧
    (s.params.bufBytes < s.src.toNat + s.len.toNat → ∃ t, exec i s = .next t ∧ FailedWith s t .bounds 0)

/-- R170: a filter command run again on what it kept keeps it all: the same length, nothing removed, BUF unchanged. -/
def Obligations.FiltersAreIdempotent : Prop :=
  ∀ (s : State) (i : Instr) (keep : Nat → Bool), filterOf i = some keep → s.params.wf = true →
    s.src.toNat + s.len.toNat ≤ s.params.bufBytes →
    ∃ t u, exec i s = .next t ∧ exec i { t with len := t.olen } = .next u ∧
      t.status.err = .none ∧ u.status.err = .none ∧ u.olen = t.olen ∧ u.aux = 0 ∧ SameBuf t u

/-! ### Stream support -/

/-- R180: the wrapping function. With W = 0 it copies; with W > 0 and C < W it runs the rule's loop, here unrolled once:
take min(W - C, remaining) bytes, and if the column then is W emit a newline and go on at column 0. Its newline count,
final column and length are those the rule derives. -/
def Obligations.WrapFunction : Prop :=
  (∀ l C, wrapText l 0 C = (l, C, 0)) ∧
  ∀ (l : List Byte) (W C : Nat), C < W →
    (l = [] → wrapText l W C = ([], C, 0)) ∧
    (l ≠ [] →
      let n := min (W - C) l.length
      let rest := wrapText (l.drop n) W (if C + n = W then 0 else C + n)
      wrapText l W C =
        if C + n = W then (l.take n ++ 0x0A :: rest.1, rest.2.1, rest.2.2 + 1) else (l.take n ++ rest.1, rest.2)) ∧
    (wrapText l W C).2.2 = (C + l.length) / W ∧ (wrapText l W C).2.1 = (C + l.length) % W ∧
    (wrapText l W C).1.length = l.length + (C + l.length) / W

/-- R181, R41: WRAP completes whenever WRAP = 0 or COL < WRAP, both ranges lie in BUF and share no byte: the wrapped text
stands at DST and no other byte of BUF changes, OLEN is its length, AUX the number of newlines, COL the final column;
DATA, X and all else are unchanged. -/
def Obligations.WrapCommandCompletes : Prop :=
  (∀ p, decode p 0x0000000B = .ok .wrap) ∧
  ∀ s : State, s.params.wf = true → ¬ WrapParamBad s →
    let r := wrapText s.input s.wrap.toNat s.col.toNat
    TransferRangesOk s r.1.length →
    ∃ t, exec .wrap s = .next t ∧ Succeeded s t r.1.length r.2.2 ∧ WroteAt s t s.dst.toNat r.1 ∧
      t.col.toNat = r.2.1 ∧ t.data = s.data ∧ t.x0 = s.x0 ∧ t.x1 = s.x1

/-- R182: wrapping a stream chunk by chunk, the column carried from one call to the next, gives the wrapping of the whole,
and each call finds its column valid; no output line between newlines is longer than W; and taking out the newlines that
were put in gives back the input: the byte at offset i goes to i + (C + i) / W, and the k-th newline to
(k + 1) * W - C + k. -/
def Obligations.WrappingIsChunkIndependent : Prop :=
  (∀ (ls : List (List Byte)) (W C : Nat), W = 0 ∨ C < W →
    wrapStream W C ls = wrapText ls.flatten W C ∧ (W = 0 ∨ (wrapStream W C ls).2.1 < W)) ∧
  ∀ (l : List Byte) (W C : Nat), C < W →
    (∀ i, i < l.length → (wrapText l W C).1[i + (C + i) / W]? = l[i]?) ∧
    (∀ k, k < (wrapText l W C).2.2 → (wrapText l W C).1[(k + 1) * W - C + k]? = some 0x0A) ∧
    (∀ k, k + W < (wrapText l W C).1.length → ∃ j, j ≤ W ∧ (wrapText l W C).1[k + j]? = some 0x0A) ∧
    ((0x0A : Byte) ∉ l → (wrapText l W C).1.filter (fun b => b != 0x0A) = l)

/-- R183: NOP only completes: STATUS.DONE is set, STATUS.ERR and ERRINFO are 0, and OLEN, AUX, DATA, X, COL, BUF and all
else are unchanged; with CTRL.IE = 1 it raises the interrupt. -/
def Obligations.NoOperationOnlyCompletes : Prop :=
  (∀ p, decode p 0x00000000 = .ok .nop) ∧
  ∀ s : State, ∃ t, exec .nop s = .next t ∧ Succeeded s t s.olen.toNat s.aux.toNat ∧ SameData s t ∧ SameBuf s t ∧
    t.draws = s.draws ∧ t.irq = s.ctrl.ie

/-! ### Errors and frames -/

/-- R200, R201, R203, R205: which error each command reports, in the order of priority: ILLEGAL for a word that selects no
command, whatever the operands; WRAP's PARAM; then BOUNDS with ERRINFO 0 for the source range, for all ten buffer commands;
then ZPOS; then BOUNDS with ERRINFO 1 for the destination range; then OVERLAP. -/
def Obligations.ErrorPriority : Prop :=
  (∀ s : State, IllegalWord s.params s.cmd → ∃ t, s.execute = .next t ∧ FailedWith s t .illegal 0) ∧
  (∀ s : State, WrapParamBad s → ∃ t, exec .wrap s = .next t ∧ FailedWith s t .param 0) ∧
  (∀ (s : State) (i : Instr) (keep : Nat → Bool), filterOf i = some keep →
    s.params.bufBytes < s.src.toNat + s.len.toNat → ∃ t, exec i s = .next t ∧ FailedWith s t .bounds 0) ∧
  ∀ (s : State) (i : Instr) (f : List Byte → Except Nat Chunk), transferOf s i = some f →
    ¬ (i = .wrap ∧ WrapParamBad s) →
    (s.params.bufBytes < s.src.toNat + s.len.toNat → ∃ t, exec i s = .next t ∧ FailedWith s t .bounds 0) ∧
    (s.src.toNat + s.len.toNat ≤ s.params.bufBytes →
      (∀ k, f s.input = .error k → ∃ t, exec i s = .next t ∧ FailedWith s t .zpos (BitVec.ofNat 32 k)) ∧
      ∀ c, f s.input = .ok c →
        (s.params.bufBytes < s.dst.toNat + c.out.length → ∃ t, exec i s = .next t ∧ FailedWith s t .bounds 1) ∧
        (s.dst.toNat + c.out.length ≤ s.params.bufBytes →
          (0 < s.len.toNat ∧ 0 < c.out.length ∧ s.src.toNat < s.dst.toNat + c.out.length ∧
            s.dst.toNat < s.src.toNat + s.len.toNat) →
          ∃ t, exec i s = .next t ∧ FailedWith s t .overlap 0))

/-- R196, R197: every command ends in one of the two completions: without an error, ERRINFO and ERR are 0, BUSY 0 and DONE
1; with an error, only STATUS, OLEN, AUX and ERRINFO have changed, OLEN and AUX are 0: every error is precise. -/
def Obligations.CompletionsArePrecise : Prop :=
  ∀ (i : Instr) (s t : State), exec i s = .next t →
    (t.status.err = .none → EndedWith t .none 0) ∧
    (t.status.err ≠ .none → FailedWith s t t.status.err t.errinfo)

/-- R41: the frame condition, for every command, however it ends: each command changes at most the registers and the BUF
range of its row, beside STATUS and ERRINFO. -/
def Obligations.CommandsWriteOnlyTheirRow : Prop :=
  ∀ (i : Instr) (s t : State), s.params.wf = true → exec i s = .next t →
    SameControl s t ∧
    (i ∉ [.tdec, .bdec] → t.data = s.data) ∧
    (i ∉ [.tenc, .tencz, .benc] → t.x0 = s.x0 ∧ t.x1 = s.x1) ∧
    (i ≠ .wrap → t.col = s.col) ∧
    (i = .nop → t.olen = s.olen ∧ t.aux = s.aux) ∧
    (i ∈ [.nop, .tenc, .tencz, .tdec, .benc, .bdec] → SameBuf s t) ∧
    (i ∈ [.enc, .encz, .dec, .decz, .bencb, .bdecb, .wrap] → SameBufOutside s t s.dst.toNat t.olen.toNat) ∧
    (i ∈ [.filt85, .filt85z, .filtbin] → SameBufOutside s t s.src.toNat t.olen.toNat)

/-- R6, R7, R147, R166: LANES and FILT_BLOCK have no effect on any command's result. -/
def Obligations.DatapathWidthsHaveNoEffect : Prop :=
  ∀ (i : Instr) (s t : State) (lanes : Fin 4) (block : Nat), exec i s = .next t →
    exec i { s with params := { s.params with lanesLog2 := lanes, filtBlock := block } } =
      .next { t with params := { s.params with lanesLog2 := lanes, filtBlock := block } }

/-- R89: "Each command reads exactly the registers listed": two states that agree on a command's operands (and on the
parameters and the free values to come, log 4) give the same result, whatever else they hold. -/
def Obligations.CommandsReadOnlyTheirOperands : Prop :=
  ∀ (i : Instr) (s s' t t' : State), OperandsAgree s s' i → exec i s = .next t → exec i s' = .next t' →
    ResultsAgree i t t'
end

