-- ==== Sys2Proof/Laws/Memory.lean ====
section
/-! SUPPORT. BUF: a read after a write gives the written byte, a write leaves every other byte alone, every write keeps
the canonical form, and in canonical form equal reads mean equal data. -/

namespace Sys2Proof.Machine

@[simp] theorem Memory.read?_nil (a : Nat) : Memory.read? [] a = none := rfl

/-- A write is read back, and no other address is touched. -/
theorem Memory.read?_write (m : Memory) (a x : Nat) (b : Byte) :
    Memory.read? (Memory.write a b m) x = if x = a then some b else Memory.read? m x := by
  induction m with
  | nil => simp [Memory.write, Memory.read?]
  | cons c rest ih =>
    obtain ⟨y, v⟩ := c
    simp only [Memory.write]
    split
    · simp [Memory.read?]
    · split
      · subst_vars
        simp only [Memory.read?]
        split <;> simp_all
      · simp only [Memory.read?, ih]
        split <;> split <;> simp_all

@[simp] theorem Memory.read?_write_self (m : Memory) (a : Nat) (b : Byte) :
    Memory.read? (Memory.write a b m) a = some b := by simp [Memory.read?_write]

theorem Memory.read?_write_of_ne (m : Memory) {a x : Nat} (b : Byte) (h : x ≠ a) :
    Memory.read? (Memory.write a b m) x = Memory.read? m x := by simp [Memory.read?_write, h]

/-- A run of bytes is read back, and no other address is touched. -/
theorem Memory.read?_writeBytes (l : List Byte) (m : Memory) (a x : Nat) :
    Memory.read? (Memory.writeBytes m a l) x = if a ≤ x ∧ x < a + l.length then l[x - a]? else Memory.read? m x := by
  induction l generalizing m a with
  | nil => simp [Memory.writeBytes]
  | cons b bs ih =>
    simp only [Memory.writeBytes, ih, Memory.read?_write, List.length_cons]
    rcases Nat.lt_trichotomy x a with h | h | h
    · rw [if_neg (by omega), if_neg (by omega), if_neg (by omega)]
    · subst h
      rw [if_neg (by omega), if_pos rfl, if_pos (by omega)]; simp
    · obtain ⟨k, rfl⟩ : ∃ k, x = a + 1 + k := ⟨x - (a + 1), by omega⟩
      have e : a + 1 + k - a = k + 1 := by omega
      by_cases hk : k < bs.length
      · rw [if_pos (by omega), if_pos (by omega), e]; simp
      · rw [if_neg (by omega), if_neg (by omega), if_neg (by omega)]

theorem Memory.wf_cons (c : Host.Cell) (m : Memory) :
    Memory.wf (c :: m) = true ↔ (∀ d ∈ m, c.1 < d.1) ∧ Memory.wf m = true := by
  simp [Memory.wf]

theorem Memory.mem_write {m : Memory} {a : Nat} {b : Byte} {d : Host.Cell} (h : d ∈ Memory.write a b m) :
    d.1 = a ∨ d ∈ m := by
  induction m with
  | nil => simp [Memory.write] at h; simp [h]
  | cons c rest ih =>
    obtain ⟨y, v⟩ := c
    simp only [Memory.write] at h
    split at h
    · simp only [List.mem_cons] at h ⊢
      rcases h with rfl | h <;> simp_all
    · split at h
      · simp only [List.mem_cons] at h ⊢
        rcases h with rfl | h <;> simp_all
      · simp only [List.mem_cons] at h ⊢
        rcases h with rfl | h
        · simp
        · rcases ih h with h | h <;> simp [h]

/-- A write keeps the canonical form. -/
theorem Memory.wf_write {m : Memory} (a : Nat) (b : Byte) (h : Memory.wf m = true) :
    Memory.wf (Memory.write a b m) = true := by
  induction m with
  | nil => simp [Memory.write, Memory.wf]
  | cons c rest ih =>
    obtain ⟨y, v⟩ := c
    obtain ⟨hlt, hrest⟩ := (Memory.wf_cons _ _).1 h
    simp only [Memory.write]
    split
    · refine (Memory.wf_cons _ _).2 ⟨?_, h⟩
      intro d hd
      rcases List.mem_cons.1 hd with rfl | hd
      · assumption
      · have := hlt d hd; simp only at this ⊢; omega
    · split
      · subst_vars; exact (Memory.wf_cons _ _).2 ⟨hlt, hrest⟩
      · refine (Memory.wf_cons _ _).2 ⟨?_, ih hrest⟩
        intro d hd
        rcases Memory.mem_write hd with hd | hd
        · simp only; omega
        · exact hlt d hd

theorem Memory.below_iff (n : Nat) (m : Memory) : Memory.below n m = true ↔ ∀ d ∈ m, d.1 < n := by
  simp [Memory.below]

/-- A write inside the bound keeps it. -/
theorem Memory.below_write {m : Memory} {n a : Nat} (b : Byte) (h : Memory.below n m = true) (ha : a < n) :
    Memory.below n (Memory.write a b m) = true := by
  rw [Memory.below_iff] at h ⊢
  intro d hd
  rcases Memory.mem_write hd with hd | hd
  · omega
  · exact h d hd

theorem Memory.wf_writeBytes (l : List Byte) {m : Memory} (a : Nat) (h : Memory.wf m = true) :
    Memory.wf (Memory.writeBytes m a l) = true := by
  induction l generalizing m a with
  | nil => exact h
  | cons b bs ih => exact ih _ (Memory.wf_write a b h)

theorem Memory.below_writeBytes (l : List Byte) {m : Memory} {n a : Nat} (h : Memory.below n m = true)
    (ha : a + l.length ≤ n) : Memory.below n (Memory.writeBytes m a l) = true := by
  induction l generalizing m a with
  | nil => exact h
  | cons b bs ih =>
    simp only [List.length_cons] at ha
    exact ih (Memory.below_write b h (by omega)) (by omega)

theorem Memory.read?_eq_none {m : Memory} {a : Nat} (h : ∀ d ∈ m, a < d.1) : Memory.read? m a = none := by
  induction m with
  | nil => rfl
  | cons c rest ih =>
    have hc := h c (by simp)
    simp only [Memory.read?]
    rw [if_neg (by omega)]
    exact ih fun d hd => h d (by simp [hd])

/-- In canonical form, memories that read alike at every address are the same data. -/
theorem Memory.eq_of_read?_eq {m m' : Memory} (h : Memory.wf m = true) (h' : Memory.wf m' = true)
    (heq : ∀ a, Memory.read? m a = Memory.read? m' a) : m = m' := by
  induction m generalizing m' with
  | nil =>
    cases m' with
    | nil => rfl
    | cons c rest => have := heq c.1; simp [Memory.read?] at this
  | cons c rest ih =>
    obtain ⟨x, v⟩ := c
    obtain ⟨hlt, hrest⟩ := (Memory.wf_cons _ _).1 h
    cases m' with
    | nil => have := heq x; simp [Memory.read?] at this
    | cons c' rest' =>
      obtain ⟨y, w⟩ := c'
      obtain ⟨hlt', hrest'⟩ := (Memory.wf_cons _ _).1 h'
      have hxy : x = y := by
        rcases Nat.lt_trichotomy x y with hl | hl | hl
        · have hx := heq x
          rw [Memory.read?_eq_none (m := (y, w) :: rest')] at hx
          · simp [Memory.read?] at hx
          · intro d hd
            rcases List.mem_cons.1 hd with rfl | hd
            · exact hl
            · exact Nat.lt_trans hl (hlt' d hd)
        · exact hl
        · have hy := heq y
          rw [Memory.read?_eq_none (m := (x, v) :: rest)] at hy
          · simp [Memory.read?] at hy
          · intro d hd
            rcases List.mem_cons.1 hd with rfl | hd
            · exact hl
            · exact Nat.lt_trans hl (hlt d hd)
      subst hxy
      have hv : v = w := by have := heq x; simpa [Memory.read?] using this
      subst hv
      congr 1
      refine ih hrest hrest' fun a => ?_
      by_cases ha : a = x
      · subst ha
        rw [Memory.read?_eq_none hlt, Memory.read?_eq_none hlt']
      · have := heq a
        simpa [Memory.read?, ha] using this

/-- MemRead gives as many bytes as it is asked for. -/
@[simp] theorem State.length_memRead (s : State) (a n : Nat) : (s.memRead a n).length = n := by
  simp [State.memRead]

@[simp] theorem State.length_input (s : State) : s.input.length = s.len.toNat := by simp [State.input]

/-- A written byte is what MemRead gives. -/
theorem State.memRead_getElem? (s : State) {a n i : Nat} {b : Byte} (hi : i < n)
    (h : Memory.read? s.buf (a + i) = some b) : (s.memRead a n)[i]? = some b := by
  simp [State.memRead, hi, h]

end Sys2Proof.Machine
end

