-- ==== Sys2Proof/Laws/State.lean ====
section
/-! SUPPORT. What each named update of State does to each field, true by unfolding, so that no proof unfolds a record
update again. -/

namespace Sys2Proof.Machine


/-! `State.draw` -/

@[simp] theorem State.draw_params (s : State) (n : Nat) : (s.draw n).params = s.params := rfl
@[simp] theorem State.draw_ctrl (s : State) (n : Nat) : (s.draw n).ctrl = s.ctrl := rfl
@[simp] theorem State.draw_status (s : State) (n : Nat) : (s.draw n).status = s.status := rfl
@[simp] theorem State.draw_cmd (s : State) (n : Nat) : (s.draw n).cmd = s.cmd := rfl
@[simp] theorem State.draw_src (s : State) (n : Nat) : (s.draw n).src = s.src := rfl
@[simp] theorem State.draw_dst (s : State) (n : Nat) : (s.draw n).dst = s.dst := rfl
@[simp] theorem State.draw_len (s : State) (n : Nat) : (s.draw n).len = s.len := rfl
@[simp] theorem State.draw_data (s : State) (n : Nat) : (s.draw n).data = s.data := rfl
@[simp] theorem State.draw_x0 (s : State) (n : Nat) : (s.draw n).x0 = s.x0 := rfl
@[simp] theorem State.draw_x1 (s : State) (n : Nat) : (s.draw n).x1 = s.x1 := rfl
@[simp] theorem State.draw_wrap (s : State) (n : Nat) : (s.draw n).wrap = s.wrap := rfl
@[simp] theorem State.draw_col (s : State) (n : Nat) : (s.draw n).col = s.col := rfl
@[simp] theorem State.draw_olen (s : State) (n : Nat) : (s.draw n).olen = s.olen := rfl
@[simp] theorem State.draw_aux (s : State) (n : Nat) : (s.draw n).aux = s.aux := rfl
@[simp] theorem State.draw_errinfo (s : State) (n : Nat) : (s.draw n).errinfo = s.errinfo := rfl
@[simp] theorem State.draw_buf (s : State) (n : Nat) : (s.draw n).buf = s.buf := rfl
@[simp] theorem State.draw_script (s : State) (n : Nat) : (s.draw n).script = s.script := rfl
@[simp] theorem State.draw_turns (s : State) (n : Nat) : (s.draw n).turns = s.turns := rfl
@[simp] theorem State.draw_replies (s : State) (n : Nat) : (s.draw n).replies = s.replies := rfl
@[simp] theorem State.draw_draws (s : State) (n : Nat) : (s.draw n).draws = s.draws + n := rfl

/-! `State.setX` -/

@[simp] theorem State.setX_params (s : State) (l : List Byte) : (s.setX l).params = s.params := rfl
@[simp] theorem State.setX_ctrl (s : State) (l : List Byte) : (s.setX l).ctrl = s.ctrl := rfl
@[simp] theorem State.setX_status (s : State) (l : List Byte) : (s.setX l).status = s.status := rfl
@[simp] theorem State.setX_cmd (s : State) (l : List Byte) : (s.setX l).cmd = s.cmd := rfl
@[simp] theorem State.setX_src (s : State) (l : List Byte) : (s.setX l).src = s.src := rfl
@[simp] theorem State.setX_dst (s : State) (l : List Byte) : (s.setX l).dst = s.dst := rfl
@[simp] theorem State.setX_len (s : State) (l : List Byte) : (s.setX l).len = s.len := rfl
@[simp] theorem State.setX_data (s : State) (l : List Byte) : (s.setX l).data = s.data := rfl
@[simp] theorem State.setX_x0 (s : State) (l : List Byte) : (s.setX l).x0 = be32 (l.getD 0 0) (l.getD 1 0) (l.getD 2 0) (l.getD 3 0) := rfl
@[simp] theorem State.setX_x1 (s : State) (l : List Byte) : (s.setX l).x1 = be32 (l.getD 4 0) (l.getD 5 0) (l.getD 6 0) (l.getD 7 0) := rfl
@[simp] theorem State.setX_wrap (s : State) (l : List Byte) : (s.setX l).wrap = s.wrap := rfl
@[simp] theorem State.setX_col (s : State) (l : List Byte) : (s.setX l).col = s.col := rfl
@[simp] theorem State.setX_olen (s : State) (l : List Byte) : (s.setX l).olen = s.olen := rfl
@[simp] theorem State.setX_aux (s : State) (l : List Byte) : (s.setX l).aux = s.aux := rfl
@[simp] theorem State.setX_errinfo (s : State) (l : List Byte) : (s.setX l).errinfo = s.errinfo := rfl
@[simp] theorem State.setX_buf (s : State) (l : List Byte) : (s.setX l).buf = s.buf := rfl
@[simp] theorem State.setX_script (s : State) (l : List Byte) : (s.setX l).script = s.script := rfl
@[simp] theorem State.setX_turns (s : State) (l : List Byte) : (s.setX l).turns = s.turns := rfl
@[simp] theorem State.setX_replies (s : State) (l : List Byte) : (s.setX l).replies = s.replies := rfl
@[simp] theorem State.setX_draws (s : State) (l : List Byte) : (s.setX l).draws = s.draws := rfl

/-! `State.setResult` -/

@[simp] theorem State.setResult_params (s : State) (n a : Nat) : (s.setResult n a).params = s.params := rfl
@[simp] theorem State.setResult_ctrl (s : State) (n a : Nat) : (s.setResult n a).ctrl = s.ctrl := rfl
@[simp] theorem State.setResult_status (s : State) (n a : Nat) : (s.setResult n a).status = s.status := rfl
@[simp] theorem State.setResult_cmd (s : State) (n a : Nat) : (s.setResult n a).cmd = s.cmd := rfl
@[simp] theorem State.setResult_src (s : State) (n a : Nat) : (s.setResult n a).src = s.src := rfl
@[simp] theorem State.setResult_dst (s : State) (n a : Nat) : (s.setResult n a).dst = s.dst := rfl
@[simp] theorem State.setResult_len (s : State) (n a : Nat) : (s.setResult n a).len = s.len := rfl
@[simp] theorem State.setResult_data (s : State) (n a : Nat) : (s.setResult n a).data = s.data := rfl
@[simp] theorem State.setResult_x0 (s : State) (n a : Nat) : (s.setResult n a).x0 = s.x0 := rfl
@[simp] theorem State.setResult_x1 (s : State) (n a : Nat) : (s.setResult n a).x1 = s.x1 := rfl
@[simp] theorem State.setResult_wrap (s : State) (n a : Nat) : (s.setResult n a).wrap = s.wrap := rfl
@[simp] theorem State.setResult_col (s : State) (n a : Nat) : (s.setResult n a).col = s.col := rfl
@[simp] theorem State.setResult_olen (s : State) (n a : Nat) : (s.setResult n a).olen = countWord n := rfl
@[simp] theorem State.setResult_aux (s : State) (n a : Nat) : (s.setResult n a).aux = countWord a := rfl
@[simp] theorem State.setResult_errinfo (s : State) (n a : Nat) : (s.setResult n a).errinfo = s.errinfo := rfl
@[simp] theorem State.setResult_buf (s : State) (n a : Nat) : (s.setResult n a).buf = s.buf := rfl
@[simp] theorem State.setResult_script (s : State) (n a : Nat) : (s.setResult n a).script = s.script := rfl
@[simp] theorem State.setResult_turns (s : State) (n a : Nat) : (s.setResult n a).turns = s.turns := rfl
@[simp] theorem State.setResult_replies (s : State) (n a : Nat) : (s.setResult n a).replies = s.replies := rfl
@[simp] theorem State.setResult_draws (s : State) (n a : Nat) : (s.setResult n a).draws = s.draws := rfl

/-! `State.complete` -/

@[simp] theorem State.complete_params (s : State) : s.complete.params = s.params := rfl
@[simp] theorem State.complete_ctrl (s : State) : s.complete.ctrl = s.ctrl := rfl
@[simp] theorem State.complete_status (s : State) : s.complete.status = s.status.finish .none := rfl
@[simp] theorem State.complete_cmd (s : State) : s.complete.cmd = s.cmd := rfl
@[simp] theorem State.complete_src (s : State) : s.complete.src = s.src := rfl
@[simp] theorem State.complete_dst (s : State) : s.complete.dst = s.dst := rfl
@[simp] theorem State.complete_len (s : State) : s.complete.len = s.len := rfl
@[simp] theorem State.complete_data (s : State) : s.complete.data = s.data := rfl
@[simp] theorem State.complete_x0 (s : State) : s.complete.x0 = s.x0 := rfl
@[simp] theorem State.complete_x1 (s : State) : s.complete.x1 = s.x1 := rfl
@[simp] theorem State.complete_wrap (s : State) : s.complete.wrap = s.wrap := rfl
@[simp] theorem State.complete_col (s : State) : s.complete.col = s.col := rfl
@[simp] theorem State.complete_olen (s : State) : s.complete.olen = s.olen := rfl
@[simp] theorem State.complete_aux (s : State) : s.complete.aux = s.aux := rfl
@[simp] theorem State.complete_errinfo (s : State) : s.complete.errinfo = 0 := rfl
@[simp] theorem State.complete_buf (s : State) : s.complete.buf = s.buf := rfl
@[simp] theorem State.complete_script (s : State) : s.complete.script = s.script := rfl
@[simp] theorem State.complete_turns (s : State) : s.complete.turns = s.turns := rfl
@[simp] theorem State.complete_replies (s : State) : s.complete.replies = s.replies := rfl
@[simp] theorem State.complete_draws (s : State) : s.complete.draws = s.draws := rfl

/-! `State.raiseErr` -/

@[simp] theorem State.raiseErr_params (s : State) (e : ErrCode) (i : Word) : (s.raiseErr e i).params = s.params := rfl
@[simp] theorem State.raiseErr_ctrl (s : State) (e : ErrCode) (i : Word) : (s.raiseErr e i).ctrl = s.ctrl := rfl
@[simp] theorem State.raiseErr_status (s : State) (e : ErrCode) (i : Word) : (s.raiseErr e i).status = s.status.finish e := rfl
@[simp] theorem State.raiseErr_cmd (s : State) (e : ErrCode) (i : Word) : (s.raiseErr e i).cmd = s.cmd := rfl
@[simp] theorem State.raiseErr_src (s : State) (e : ErrCode) (i : Word) : (s.raiseErr e i).src = s.src := rfl
@[simp] theorem State.raiseErr_dst (s : State) (e : ErrCode) (i : Word) : (s.raiseErr e i).dst = s.dst := rfl
@[simp] theorem State.raiseErr_len (s : State) (e : ErrCode) (i : Word) : (s.raiseErr e i).len = s.len := rfl
@[simp] theorem State.raiseErr_data (s : State) (e : ErrCode) (i : Word) : (s.raiseErr e i).data = s.data := rfl
@[simp] theorem State.raiseErr_x0 (s : State) (e : ErrCode) (i : Word) : (s.raiseErr e i).x0 = s.x0 := rfl
@[simp] theorem State.raiseErr_x1 (s : State) (e : ErrCode) (i : Word) : (s.raiseErr e i).x1 = s.x1 := rfl
@[simp] theorem State.raiseErr_wrap (s : State) (e : ErrCode) (i : Word) : (s.raiseErr e i).wrap = s.wrap := rfl
@[simp] theorem State.raiseErr_col (s : State) (e : ErrCode) (i : Word) : (s.raiseErr e i).col = s.col := rfl
@[simp] theorem State.raiseErr_olen (s : State) (e : ErrCode) (i : Word) : (s.raiseErr e i).olen = 0 := rfl
@[simp] theorem State.raiseErr_aux (s : State) (e : ErrCode) (i : Word) : (s.raiseErr e i).aux = 0 := rfl
@[simp] theorem State.raiseErr_errinfo (s : State) (e : ErrCode) (i : Word) : (s.raiseErr e i).errinfo = i := rfl
@[simp] theorem State.raiseErr_buf (s : State) (e : ErrCode) (i : Word) : (s.raiseErr e i).buf = s.buf := rfl
@[simp] theorem State.raiseErr_script (s : State) (e : ErrCode) (i : Word) : (s.raiseErr e i).script = s.script := rfl
@[simp] theorem State.raiseErr_turns (s : State) (e : ErrCode) (i : Word) : (s.raiseErr e i).turns = s.turns := rfl
@[simp] theorem State.raiseErr_replies (s : State) (e : ErrCode) (i : Word) : (s.raiseErr e i).replies = s.replies := rfl
@[simp] theorem State.raiseErr_draws (s : State) (e : ErrCode) (i : Word) : (s.raiseErr e i).draws = s.draws := rfl

/-! `State.writeStatus` -/

@[simp] theorem State.writeStatus_params (s : State) (v : Word) : (s.writeStatus v).params = s.params := rfl
@[simp] theorem State.writeStatus_ctrl (s : State) (v : Word) : (s.writeStatus v).ctrl = s.ctrl := rfl
@[simp] theorem State.writeStatus_status (s : State) (v : Word) : (s.writeStatus v).status = s.status.writeOneToClear v := rfl
@[simp] theorem State.writeStatus_cmd (s : State) (v : Word) : (s.writeStatus v).cmd = s.cmd := rfl
@[simp] theorem State.writeStatus_src (s : State) (v : Word) : (s.writeStatus v).src = s.src := rfl
@[simp] theorem State.writeStatus_dst (s : State) (v : Word) : (s.writeStatus v).dst = s.dst := rfl
@[simp] theorem State.writeStatus_len (s : State) (v : Word) : (s.writeStatus v).len = s.len := rfl
@[simp] theorem State.writeStatus_data (s : State) (v : Word) : (s.writeStatus v).data = s.data := rfl
@[simp] theorem State.writeStatus_x0 (s : State) (v : Word) : (s.writeStatus v).x0 = s.x0 := rfl
@[simp] theorem State.writeStatus_x1 (s : State) (v : Word) : (s.writeStatus v).x1 = s.x1 := rfl
@[simp] theorem State.writeStatus_wrap (s : State) (v : Word) : (s.writeStatus v).wrap = s.wrap := rfl
@[simp] theorem State.writeStatus_col (s : State) (v : Word) : (s.writeStatus v).col = s.col := rfl
@[simp] theorem State.writeStatus_olen (s : State) (v : Word) : (s.writeStatus v).olen = s.olen := rfl
@[simp] theorem State.writeStatus_aux (s : State) (v : Word) : (s.writeStatus v).aux = s.aux := rfl
@[simp] theorem State.writeStatus_errinfo (s : State) (v : Word) : (s.writeStatus v).errinfo = s.errinfo := rfl
@[simp] theorem State.writeStatus_buf (s : State) (v : Word) : (s.writeStatus v).buf = s.buf := rfl
@[simp] theorem State.writeStatus_script (s : State) (v : Word) : (s.writeStatus v).script = s.script := rfl
@[simp] theorem State.writeStatus_turns (s : State) (v : Word) : (s.writeStatus v).turns = s.turns := rfl
@[simp] theorem State.writeStatus_replies (s : State) (v : Word) : (s.writeStatus v).replies = s.replies := rfl
@[simp] theorem State.writeStatus_draws (s : State) (v : Word) : (s.writeStatus v).draws = s.draws := rfl

/-! `State.accept` -/

@[simp] theorem State.accept_params (s : State) (v : Word) : (s.accept v).params = s.params := rfl
@[simp] theorem State.accept_ctrl (s : State) (v : Word) : (s.accept v).ctrl = s.ctrl := rfl
@[simp] theorem State.accept_status (s : State) (v : Word) : (s.accept v).status = s.status.accept := rfl
@[simp] theorem State.accept_cmd (s : State) (v : Word) : (s.accept v).cmd = v := rfl
@[simp] theorem State.accept_src (s : State) (v : Word) : (s.accept v).src = s.src := rfl
@[simp] theorem State.accept_dst (s : State) (v : Word) : (s.accept v).dst = s.dst := rfl
@[simp] theorem State.accept_len (s : State) (v : Word) : (s.accept v).len = s.len := rfl
@[simp] theorem State.accept_data (s : State) (v : Word) : (s.accept v).data = s.data := rfl
@[simp] theorem State.accept_x0 (s : State) (v : Word) : (s.accept v).x0 = s.x0 := rfl
@[simp] theorem State.accept_x1 (s : State) (v : Word) : (s.accept v).x1 = s.x1 := rfl
@[simp] theorem State.accept_wrap (s : State) (v : Word) : (s.accept v).wrap = s.wrap := rfl
@[simp] theorem State.accept_col (s : State) (v : Word) : (s.accept v).col = s.col := rfl
@[simp] theorem State.accept_olen (s : State) (v : Word) : (s.accept v).olen = s.olen := rfl
@[simp] theorem State.accept_aux (s : State) (v : Word) : (s.accept v).aux = s.aux := rfl
@[simp] theorem State.accept_errinfo (s : State) (v : Word) : (s.accept v).errinfo = s.errinfo := rfl
@[simp] theorem State.accept_buf (s : State) (v : Word) : (s.accept v).buf = s.buf := rfl
@[simp] theorem State.accept_script (s : State) (v : Word) : (s.accept v).script = s.script := rfl
@[simp] theorem State.accept_turns (s : State) (v : Word) : (s.accept v).turns = s.turns := rfl
@[simp] theorem State.accept_replies (s : State) (v : Word) : (s.accept v).replies = s.replies := rfl
@[simp] theorem State.accept_draws (s : State) (v : Word) : (s.accept v).draws = s.draws := rfl

/-! `State.dropWrite` -/

@[simp] theorem State.dropWrite_params (s : State) : s.dropWrite.params = s.params := rfl
@[simp] theorem State.dropWrite_ctrl (s : State) : s.dropWrite.ctrl = s.ctrl := rfl
@[simp] theorem State.dropWrite_status (s : State) : s.dropWrite.status = s.status.overrun := rfl
@[simp] theorem State.dropWrite_cmd (s : State) : s.dropWrite.cmd = s.cmd := rfl
@[simp] theorem State.dropWrite_src (s : State) : s.dropWrite.src = s.src := rfl
@[simp] theorem State.dropWrite_dst (s : State) : s.dropWrite.dst = s.dst := rfl
@[simp] theorem State.dropWrite_len (s : State) : s.dropWrite.len = s.len := rfl
@[simp] theorem State.dropWrite_data (s : State) : s.dropWrite.data = s.data := rfl
@[simp] theorem State.dropWrite_x0 (s : State) : s.dropWrite.x0 = s.x0 := rfl
@[simp] theorem State.dropWrite_x1 (s : State) : s.dropWrite.x1 = s.x1 := rfl
@[simp] theorem State.dropWrite_wrap (s : State) : s.dropWrite.wrap = s.wrap := rfl
@[simp] theorem State.dropWrite_col (s : State) : s.dropWrite.col = s.col := rfl
@[simp] theorem State.dropWrite_olen (s : State) : s.dropWrite.olen = s.olen := rfl
@[simp] theorem State.dropWrite_aux (s : State) : s.dropWrite.aux = s.aux := rfl
@[simp] theorem State.dropWrite_errinfo (s : State) : s.dropWrite.errinfo = s.errinfo := rfl
@[simp] theorem State.dropWrite_buf (s : State) : s.dropWrite.buf = s.buf := rfl
@[simp] theorem State.dropWrite_script (s : State) : s.dropWrite.script = s.script := rfl
@[simp] theorem State.dropWrite_turns (s : State) : s.dropWrite.turns = s.turns := rfl
@[simp] theorem State.dropWrite_replies (s : State) : s.dropWrite.replies = s.replies := rfl
@[simp] theorem State.dropWrite_draws (s : State) : s.dropWrite.draws = s.draws := rfl

/-! `State.hostRead` -/

@[simp] theorem State.hostRead_params (s : State) (a : Access) (t : Target) : (s.hostRead a t).params = s.params := rfl
@[simp] theorem State.hostRead_ctrl (s : State) (a : Access) (t : Target) : (s.hostRead a t).ctrl = s.ctrl := rfl
@[simp] theorem State.hostRead_status (s : State) (a : Access) (t : Target) : (s.hostRead a t).status = s.status := rfl
@[simp] theorem State.hostRead_cmd (s : State) (a : Access) (t : Target) : (s.hostRead a t).cmd = s.cmd := rfl
@[simp] theorem State.hostRead_src (s : State) (a : Access) (t : Target) : (s.hostRead a t).src = s.src := rfl
@[simp] theorem State.hostRead_dst (s : State) (a : Access) (t : Target) : (s.hostRead a t).dst = s.dst := rfl
@[simp] theorem State.hostRead_len (s : State) (a : Access) (t : Target) : (s.hostRead a t).len = s.len := rfl
@[simp] theorem State.hostRead_data (s : State) (a : Access) (t : Target) : (s.hostRead a t).data = s.data := rfl
@[simp] theorem State.hostRead_x0 (s : State) (a : Access) (t : Target) : (s.hostRead a t).x0 = s.x0 := rfl
@[simp] theorem State.hostRead_x1 (s : State) (a : Access) (t : Target) : (s.hostRead a t).x1 = s.x1 := rfl
@[simp] theorem State.hostRead_wrap (s : State) (a : Access) (t : Target) : (s.hostRead a t).wrap = s.wrap := rfl
@[simp] theorem State.hostRead_col (s : State) (a : Access) (t : Target) : (s.hostRead a t).col = s.col := rfl
@[simp] theorem State.hostRead_olen (s : State) (a : Access) (t : Target) : (s.hostRead a t).olen = s.olen := rfl
@[simp] theorem State.hostRead_aux (s : State) (a : Access) (t : Target) : (s.hostRead a t).aux = s.aux := rfl
@[simp] theorem State.hostRead_errinfo (s : State) (a : Access) (t : Target) : (s.hostRead a t).errinfo = s.errinfo := rfl
@[simp] theorem State.hostRead_buf (s : State) (a : Access) (t : Target) : (s.hostRead a t).buf = s.buf := rfl
@[simp] theorem State.hostRead_script (s : State) (a : Access) (t : Target) : (s.hostRead a t).script = s.script := rfl
@[simp] theorem State.hostRead_turns (s : State) (a : Access) (t : Target) : (s.hostRead a t).turns = s.turns := rfl
@[simp] theorem State.hostRead_replies (s : State) (a : Access) (t : Target) : (s.hostRead a t).replies = { access := a, value := s.readValue t } :: s.replies := rfl
@[simp] theorem State.hostRead_draws (s : State) (a : Access) (t : Target) : (s.hostRead a t).draws = if s.readDraws t then s.draws + 1 else s.draws := rfl

/-! `State.endTurn` -/

@[simp] theorem State.endTurn_params (s : State) : s.endTurn.params = s.params := rfl
@[simp] theorem State.endTurn_ctrl (s : State) : s.endTurn.ctrl = s.ctrl := rfl
@[simp] theorem State.endTurn_status (s : State) : s.endTurn.status = s.status := rfl
@[simp] theorem State.endTurn_cmd (s : State) : s.endTurn.cmd = s.cmd := rfl
@[simp] theorem State.endTurn_src (s : State) : s.endTurn.src = s.src := rfl
@[simp] theorem State.endTurn_dst (s : State) : s.endTurn.dst = s.dst := rfl
@[simp] theorem State.endTurn_len (s : State) : s.endTurn.len = s.len := rfl
@[simp] theorem State.endTurn_data (s : State) : s.endTurn.data = s.data := rfl
@[simp] theorem State.endTurn_x0 (s : State) : s.endTurn.x0 = s.x0 := rfl
@[simp] theorem State.endTurn_x1 (s : State) : s.endTurn.x1 = s.x1 := rfl
@[simp] theorem State.endTurn_wrap (s : State) : s.endTurn.wrap = s.wrap := rfl
@[simp] theorem State.endTurn_col (s : State) : s.endTurn.col = s.col := rfl
@[simp] theorem State.endTurn_olen (s : State) : s.endTurn.olen = s.olen := rfl
@[simp] theorem State.endTurn_aux (s : State) : s.endTurn.aux = s.aux := rfl
@[simp] theorem State.endTurn_errinfo (s : State) : s.endTurn.errinfo = s.errinfo := rfl
@[simp] theorem State.endTurn_buf (s : State) : s.endTurn.buf = s.buf := rfl
@[simp] theorem State.endTurn_script (s : State) : s.endTurn.script = s.script := rfl
@[simp] theorem State.endTurn_turns (s : State) : s.endTurn.turns = s.turns.tail := rfl
@[simp] theorem State.endTurn_replies (s : State) : s.endTurn.replies = s.replies := rfl
@[simp] theorem State.endTurn_draws (s : State) : s.endTurn.draws = s.draws := rfl

/-! `State.resetWith` -/

@[simp] theorem State.resetWith_params (s : State) (m : Memory) : (s.resetWith m).params = s.params := rfl
@[simp] theorem State.resetWith_ctrl (s : State) (m : Memory) : (s.resetWith m).ctrl = { ie := false } := rfl
@[simp] theorem State.resetWith_status (s : State) (m : Memory) : (s.resetWith m).status = { busy := false, done := false, ovr := false, err := .none } := rfl
@[simp] theorem State.resetWith_cmd (s : State) (m : Memory) : (s.resetWith m).cmd = 0 := rfl
@[simp] theorem State.resetWith_src (s : State) (m : Memory) : (s.resetWith m).src = 0 := rfl
@[simp] theorem State.resetWith_dst (s : State) (m : Memory) : (s.resetWith m).dst = 0 := rfl
@[simp] theorem State.resetWith_len (s : State) (m : Memory) : (s.resetWith m).len = 0 := rfl
@[simp] theorem State.resetWith_data (s : State) (m : Memory) : (s.resetWith m).data = 0 := rfl
@[simp] theorem State.resetWith_x0 (s : State) (m : Memory) : (s.resetWith m).x0 = 0 := rfl
@[simp] theorem State.resetWith_x1 (s : State) (m : Memory) : (s.resetWith m).x1 = 0 := rfl
@[simp] theorem State.resetWith_wrap (s : State) (m : Memory) : (s.resetWith m).wrap = 0 := rfl
@[simp] theorem State.resetWith_col (s : State) (m : Memory) : (s.resetWith m).col = 0 := rfl
@[simp] theorem State.resetWith_olen (s : State) (m : Memory) : (s.resetWith m).olen = 0 := rfl
@[simp] theorem State.resetWith_aux (s : State) (m : Memory) : (s.resetWith m).aux = 0 := rfl
@[simp] theorem State.resetWith_errinfo (s : State) (m : Memory) : (s.resetWith m).errinfo = 0 := rfl
@[simp] theorem State.resetWith_buf (s : State) (m : Memory) : (s.resetWith m).buf = m := rfl
@[simp] theorem State.resetWith_script (s : State) (m : Memory) : (s.resetWith m).script = s.script := rfl
@[simp] theorem State.resetWith_turns (s : State) (m : Memory) : (s.resetWith m).turns = s.turns := rfl
@[simp] theorem State.resetWith_replies (s : State) (m : Memory) : (s.resetWith m).replies = s.replies := rfl
@[simp] theorem State.resetWith_draws (s : State) (m : Memory) : (s.resetWith m).draws = s.draws := rfl

/-! `State.powerOnReset` -/

@[simp] theorem State.powerOnReset_params (s : State) : s.powerOnReset.params = s.params := rfl
@[simp] theorem State.powerOnReset_ctrl (s : State) : s.powerOnReset.ctrl = { ie := false } := rfl
@[simp] theorem State.powerOnReset_status (s : State) : s.powerOnReset.status = { busy := false, done := false, ovr := false, err := .none } := rfl
@[simp] theorem State.powerOnReset_cmd (s : State) : s.powerOnReset.cmd = 0 := rfl
@[simp] theorem State.powerOnReset_src (s : State) : s.powerOnReset.src = 0 := rfl
@[simp] theorem State.powerOnReset_dst (s : State) : s.powerOnReset.dst = 0 := rfl
@[simp] theorem State.powerOnReset_len (s : State) : s.powerOnReset.len = 0 := rfl
@[simp] theorem State.powerOnReset_data (s : State) : s.powerOnReset.data = 0 := rfl
@[simp] theorem State.powerOnReset_x0 (s : State) : s.powerOnReset.x0 = 0 := rfl
@[simp] theorem State.powerOnReset_x1 (s : State) : s.powerOnReset.x1 = 0 := rfl
@[simp] theorem State.powerOnReset_wrap (s : State) : s.powerOnReset.wrap = 0 := rfl
@[simp] theorem State.powerOnReset_col (s : State) : s.powerOnReset.col = 0 := rfl
@[simp] theorem State.powerOnReset_olen (s : State) : s.powerOnReset.olen = 0 := rfl
@[simp] theorem State.powerOnReset_aux (s : State) : s.powerOnReset.aux = 0 := rfl
@[simp] theorem State.powerOnReset_errinfo (s : State) : s.powerOnReset.errinfo = 0 := rfl
@[simp] theorem State.powerOnReset_buf (s : State) : s.powerOnReset.buf = [] := rfl
@[simp] theorem State.powerOnReset_script (s : State) : s.powerOnReset.script = s.script := rfl
@[simp] theorem State.powerOnReset_turns (s : State) : s.powerOnReset.turns = s.turns := rfl
@[simp] theorem State.powerOnReset_replies (s : State) : s.powerOnReset.replies = s.replies := rfl
@[simp] theorem State.powerOnReset_draws (s : State) : s.powerOnReset.draws = s.draws := rfl

/-! `State.softReset` -/

@[simp] theorem State.softReset_params (s : State) : s.softReset.params = s.params := rfl
@[simp] theorem State.softReset_ctrl (s : State) : s.softReset.ctrl = { ie := false } := rfl
@[simp] theorem State.softReset_status (s : State) : s.softReset.status = { busy := false, done := false, ovr := false, err := .none } := rfl
@[simp] theorem State.softReset_cmd (s : State) : s.softReset.cmd = 0 := rfl
@[simp] theorem State.softReset_src (s : State) : s.softReset.src = 0 := rfl
@[simp] theorem State.softReset_dst (s : State) : s.softReset.dst = 0 := rfl
@[simp] theorem State.softReset_len (s : State) : s.softReset.len = 0 := rfl
@[simp] theorem State.softReset_data (s : State) : s.softReset.data = 0 := rfl
@[simp] theorem State.softReset_x0 (s : State) : s.softReset.x0 = 0 := rfl
@[simp] theorem State.softReset_x1 (s : State) : s.softReset.x1 = 0 := rfl
@[simp] theorem State.softReset_wrap (s : State) : s.softReset.wrap = 0 := rfl
@[simp] theorem State.softReset_col (s : State) : s.softReset.col = 0 := rfl
@[simp] theorem State.softReset_olen (s : State) : s.softReset.olen = 0 := rfl
@[simp] theorem State.softReset_aux (s : State) : s.softReset.aux = 0 := rfl
@[simp] theorem State.softReset_errinfo (s : State) : s.softReset.errinfo = 0 := rfl
@[simp] theorem State.softReset_buf (s : State) : s.softReset.buf = if s.status.busy then [] else s.buf := rfl
@[simp] theorem State.softReset_script (s : State) : s.softReset.script = s.script := rfl
@[simp] theorem State.softReset_turns (s : State) : s.softReset.turns = s.turns := rfl
@[simp] theorem State.softReset_replies (s : State) : s.softReset.replies = s.replies := rfl
@[simp] theorem State.softReset_draws (s : State) : s.softReset.draws = s.draws := rfl

/-! STATUS -/

@[simp] theorem Status.accept_busy (t : Status) : t.accept.busy = true := rfl
@[simp] theorem Status.accept_done (t : Status) : t.accept.done = false := rfl
@[simp] theorem Status.accept_ovr (t : Status) : t.accept.ovr = t.ovr := rfl
@[simp] theorem Status.accept_err (t : Status) : t.accept.err = .none := rfl
@[simp] theorem Status.finish_busy (t : Status) (e : ErrCode) : (t.finish e).busy = false := rfl
@[simp] theorem Status.finish_done (t : Status) (e : ErrCode) : (t.finish e).done = true := rfl
@[simp] theorem Status.finish_ovr (t : Status) (e : ErrCode) : (t.finish e).ovr = t.ovr := rfl
@[simp] theorem Status.finish_err (t : Status) (e : ErrCode) : (t.finish e).err = e := rfl
@[simp] theorem Status.overrun_busy (t : Status) : t.overrun.busy = t.busy := rfl
@[simp] theorem Status.overrun_done (t : Status) : t.overrun.done = t.done := rfl
@[simp] theorem Status.overrun_ovr (t : Status) : t.overrun.ovr = true := rfl
@[simp] theorem Status.overrun_err (t : Status) : t.overrun.err = t.err := rfl
@[simp] theorem Status.writeOneToClear_busy (t : Status) (v : Word) : (t.writeOneToClear v).busy = t.busy := rfl
@[simp] theorem Status.writeOneToClear_done (t : Status) (v : Word) : (t.writeOneToClear v).done = (t.done && !v.getLsbD 1) := rfl
@[simp] theorem Status.writeOneToClear_ovr (t : Status) (v : Word) : (t.writeOneToClear v).ovr = (t.ovr && !v.getLsbD 2) := rfl
@[simp] theorem Status.writeOneToClear_err (t : Status) (v : Word) : (t.writeOneToClear v).err = t.err := rfl

end Sys2Proof.Machine
end

