-- ==== Sys2Proof/Laws/Ops.lean ====
section
/-! SUPPORT. For each shared operation, what it can do, said once: the cases of a buffer command, of a filter, of a host
access and of a step. Later proofs cite these and do not unfold the operations. -/

namespace Sys2Proof.Machine

@[simp] theorem State.validRange_iff (s : State) (a n : Nat) :
    s.validRange a n = true ↔ a + n ≤ s.params.bufBytes := by simp [State.validRange]

@[simp] theorem rangesOverlap_iff (a m d n : Nat) :
    rangesOverlap a m d n = true ↔ 0 < m ∧ 0 < n ∧ a < d + n ∧ d < a + m := by simp [rangesOverlap]

/-- The state a transfer leaves when it succeeds. -/
def State.delivered (s : State) (c : Chunk) : State :=
  ({ s with
      buf := Memory.writeBytes s.buf s.dst.toNat c.out
      col := (c.col.map countWord).getD s.col }.setResult c.out.length c.aux).complete

/-- The state a filter leaves when it succeeds. -/
def State.filtered (s : State) (k : List Byte) : State :=
  ({ s with buf := Memory.writeBytes s.buf s.src.toNat k }.setResult k.length (s.len.toNat - k.length)).complete

/-- A delivery fails on the destination range, or on an overlap, or writes its bytes and completes. -/
theorem State.deliver_cases (s : State) (c : Chunk) :
    (s.params.bufBytes < s.dst.toNat + c.out.length ∧ s.deliver c = s.raiseErr .bounds 1) ∨
    (s.dst.toNat + c.out.length ≤ s.params.bufBytes ∧
      rangesOverlap s.src.toNat s.len.toNat s.dst.toNat c.out.length = true ∧ s.deliver c = s.raiseErr .overlap 0) ∨
    (s.dst.toNat + c.out.length ≤ s.params.bufBytes ∧
      rangesOverlap s.src.toNat s.len.toNat s.dst.toNat c.out.length = false ∧ s.deliver c = s.delivered c) := by
  unfold State.deliver
  by_cases hv : s.dst.toNat + c.out.length ≤ s.params.bufBytes
  · rcases ho : rangesOverlap s.src.toNat s.len.toNat s.dst.toNat c.out.length with _ | _
    · exact .inr (.inr ⟨hv, rfl, by simp [State.validRange, hv, ho, State.delivered]⟩)
    · exact .inr (.inl ⟨hv, rfl, by simp [State.validRange, hv, ho]⟩)
  · exact .inl ⟨by omega, by simp [State.validRange, hv]⟩

/-- A transfer fails on the source range, or fails in the transform, or delivers what the transform gave. -/
theorem State.transcode_cases (s : State) (f : List Byte → Except Nat Chunk) :
    (s.params.bufBytes < s.src.toNat + s.len.toNat ∧ s.transcode f = s.raiseErr .bounds 0) ∨
    (s.src.toNat + s.len.toNat ≤ s.params.bufBytes ∧
      ∃ i, f s.input = .error i ∧ s.transcode f = (s.draw s.len.toNat).raiseErr .zpos (countWord i)) ∨
    (s.src.toNat + s.len.toNat ≤ s.params.bufBytes ∧
      ∃ c, f s.input = .ok c ∧ s.transcode f = (s.draw s.len.toNat).deliver c) := by
  unfold State.transcode
  by_cases hv : s.src.toNat + s.len.toNat ≤ s.params.bufBytes
  · rcases hf : f s.input with i | c
    · exact .inr (.inl ⟨hv, i, rfl, by simp [State.validRange, hv]⟩)
    · exact .inr (.inr ⟨hv, c, rfl, by simp [State.validRange, hv]⟩)
  · exact .inl ⟨by omega, by simp [State.validRange, hv]⟩

/-- When both ranges lie in BUF and share no byte, a transfer writes its bytes and completes. -/
theorem State.transcode_of_ok {s : State} {f : List Byte → Except Nat Chunk} {c : Chunk} (hf : f s.input = .ok c)
    (h : TransferRangesOk s c.out.length) : s.transcode f = (s.draw s.len.toNat).delivered c := by
  obtain ⟨h1, h2, h3⟩ := h
  rcases s.transcode_cases f with ⟨h, -⟩ | ⟨-, i, h, -⟩ | ⟨-, d, h, ht⟩
  · omega
  · simp [hf] at h
  · obtain rfl : c = d := by simpa [hf] using h
    rw [ht]
    rcases (s.draw s.len.toNat).deliver_cases c with ⟨h, -⟩ | ⟨-, h, -⟩ | ⟨-, -, h⟩
    · simp at h; omega
    · exact absurd ((rangesOverlap_iff _ _ _ _).1 h) h3
    · exact h

/-- A filter fails on the source range, or keeps what its predicate keeps and completes. -/
theorem State.filterInPlace_cases (s : State) (keep : Byte → Bool) :
    (s.params.bufBytes < s.src.toNat + s.len.toNat ∧ s.filterInPlace keep = s.raiseErr .bounds 0) ∨
    (s.src.toNat + s.len.toNat ≤ s.params.bufBytes ∧
      s.filterInPlace keep = (s.draw s.len.toNat).filtered (s.input.filter keep)) := by
  unfold State.filterInPlace
  by_cases hv : s.src.toNat + s.len.toNat ≤ s.params.bufBytes
  · exact .inr ⟨hv, by simp [State.validRange, hv, State.filtered, compact]⟩
  · exact .inl ⟨by omega, by simp [State.validRange, hv]⟩

/-- Every command's next state: a completion that writes at most DATA, X, OLEN and AUX; NOP's bare completion; a
transfer; a filter; or WRAP's parameter error. -/
theorem exec_cases (i : Instr) (s : State) :
    (∃ d x y n, n ≤ 8 ∧ exec i s = .next ({ s with data := d, x0 := x, x1 := y }.setResult n 0).complete) ∨
    exec i s = .next s.complete ∨
    (∃ f, exec i s = .next (s.transcode f)) ∨
    (∃ keep, exec i s = .next (s.filterInPlace keep)) ∨
    exec i s = .next (s.raiseErr .param 0) := by
  cases i <;> simp only [exec]
  case nop => exact .inr (.inl rfl)
  case tenc => exact .inl ⟨s.data, _, _, 5, by decide, rfl⟩
  case tencz =>
    unfold execTencz
    split
    · exact .inl ⟨s.data, _, _, 1, by decide, rfl⟩
    · exact .inl ⟨s.data, _, _, 5, by decide, rfl⟩
  case tdec => exact .inl ⟨_, s.x0, s.x1, 4, by decide, rfl⟩
  case benc => exact .inl ⟨s.data, _, _, 8, by decide, rfl⟩
  case bdec => exact .inl ⟨_, s.x0, s.x1, 1, by decide, rfl⟩
  case wrap =>
    unfold execWrap
    split
    · exact .inr (.inr (.inr (.inr rfl)))
    · exact .inr (.inr (.inl ⟨_, rfl⟩))
  case filt85 => exact .inr (.inr (.inr (.inl ⟨_, rfl⟩)))
  case filt85z => exact .inr (.inr (.inr (.inl ⟨_, rfl⟩)))
  case filtbin => exact .inr (.inr (.inr (.inl ⟨_, rfl⟩)))
  all_goals exact .inr (.inr (.inl ⟨_, rfl⟩))

/-- A step is the host's move, the unit's execute step, nothing, or power-on reset; which one, and when. -/
theorem step_cases (s : State) :
    (s.nextTurn = .host ∧ step s = .next s.endTurn.hostMove) ∨
    (s.nextTurn = .unit ∧ s.status.busy = true ∧ step s = s.endTurn.execute) ∨
    (s.nextTurn = .unit ∧ s.status.busy = false ∧ step s = .next s.endTurn) ∨
    (s.nextTurn = .powerOn ∧ step s = .next s.endTurn.powerOnReset) := by
  unfold step
  rcases h : s.nextTurn with _ | _ | _
  · exact .inl ⟨rfl, rfl⟩
  · rcases hb : s.status.busy with _ | _
    · exact .inr (.inr (.inl ⟨rfl, rfl, by simp [State.move, State.unitMove, hb]⟩))
    · exact .inr (.inl ⟨rfl, rfl, by simp [State.move, State.unitMove, hb]⟩)
  · exact .inr (.inr (.inr ⟨rfl, rfl⟩))

/-- The unit's execute step is the command the latched word selects, or the ILLEGAL completion. -/
theorem State.execute_cases (s : State) :
    (∃ i, decode s.params s.cmd = .ok i ∧ s.execute = exec i s) ∨
    (∃ e, decode s.params s.cmd = .error e ∧ s.execute = .next (s.raiseErr .illegal 0)) := by
  unfold State.execute
  rcases h : decode s.params s.cmd with e | i
  · exact .inr ⟨e, rfl, rfl⟩
  · exact .inl ⟨i, rfl, rfl⟩

/-- A host write to a register is: without effect (RO); a CTRL or STATUS write; dropped because busy; or, while idle, the
acceptance of a command or the write of the one register named. -/
theorem State.writeReg_cases (s : State) (v : Word) (r : RegName) :
    s.writeReg v r = s ∨ (r = .CTRL ∧ s.writeReg v r = s.writeCtrl v) ∨ s.writeReg v r = s.writeStatus v ∨
    (s.status.busy = true ∧ s.writeReg v r = s.dropWrite) ∨
    (s.status.busy = false ∧ r = .CMD ∧ s.writeReg v r = s.accept v) ∨
    (s.status.busy = false ∧ ∃ a b c d e f g h, s.writeReg v r =
      { s with src := a, dst := b, len := c, data := d, x0 := e, x1 := f, wrap := g, col := h }) := by
  rcases hb : s.status.busy with _ | _
  · have idle : ∀ t : State, s.writeWhenIdle t = t := fun t => by simp [State.writeWhenIdle, hb]
    have reg : ∀ t : State, (∃ a b c d e f g h, t =
        { s with src := a, dst := b, len := c, data := d, x0 := e, x1 := f, wrap := g, col := h }) →
        ∃ a b c d e f g h, s.writeWhenIdle t =
        { s with src := a, dst := b, len := c, data := d, x0 := e, x1 := f, wrap := g, col := h } := by
      intro t h; rw [idle]; exact h
    cases r
    case ID | CAP | OLEN | AUX | ERRINFO => exact .inl rfl
    case CTRL => exact .inr (.inl ⟨rfl, rfl⟩)
    case STATUS => exact .inr (.inr (.inl rfl))
    case CMD => exact .inr (.inr (.inr (.inr (.inl ⟨rfl, rfl, idle _⟩))))
    all_goals exact .inr (.inr (.inr (.inr (.inr ⟨rfl, reg _ ⟨_, _, _, _, _, _, _, _, rfl⟩⟩))))
  · have busy : ∀ t : State, s.writeWhenIdle t = s.dropWrite := fun t => by simp [State.writeWhenIdle, hb]
    cases r
    case ID | CAP | OLEN | AUX | ERRINFO => exact .inl rfl
    case CTRL => exact .inr (.inl ⟨rfl, rfl⟩)
    case STATUS => exact .inr (.inr (.inl rfl))
    all_goals exact .inr (.inr (.inr (.inl ⟨rfl, busy _⟩)))

/-- The byte an access reaches lies in BUF. -/
theorem busTarget_byte_lt {p : Params} {w : Width} {o : Offset} {a : Nat} (h : busTarget p w o = .byte a) :
    a < p.bufBytes := by
  simp only [busTarget] at h
  split at h
  · split at h
    · split at h <;> simp at h
    · simp at h
  · split at h
    · simp at h
    · split at h
      · split at h
        · simp at h; omega
        · simp at h
      · simp at h

theorem RegName.offset_of_ofOffset {n : Nat} {r : RegName} (h : RegName.ofOffset n = some r) : r.offset = n := by
  have := List.find?_some h
  simpa using this

/-- A register is reached only by a 32-bit access at its offset (10_state.md R22, 20_memory.md R68). -/
theorem busTarget_reg {p : Params} {w : Width} {o : Offset} {r : RegName} (h : busTarget p w o = .reg r) :
    w = .bits32 ∧ o = BitVec.ofNat 25 r.offset := by
  simp only [busTarget] at h
  split at h
  · split at h
    · rename_i hw
      split at h
      · rename_i r' hr
        obtain rfl : r' = r := by simpa using h
        refine ⟨hw.1, ?_⟩
        rw [RegName.offset_of_ofOffset hr]
        simp
      · simp at h
    · simp at h
  · split at h
    · simp at h
    · split at h
      · split at h <;> simp at h
      · simp at h

/-- A bus access is a read; or without effect; or a 32-bit write of a register; or a byte write in BUF while idle, or one
dropped because busy. -/
theorem State.bus_cases (s : State) (a : Access) :
    (∃ t, s.bus a = s.hostRead a t) ∨ s.bus a = s ∨
    (∃ v r, a = .w32 (BitVec.ofNat 25 r.offset) v ∧ s.bus a = s.writeReg v r) ∨
    (s.status.busy = false ∧ ∃ x b, x < s.params.bufBytes ∧ s.bus a = { s with buf := Memory.write x b s.buf }) ∨
    (s.status.busy = true ∧ s.bus a = s.dropWrite) := by
  have w : ∀ (v : Word) (t : Target), (∀ x, t = .byte x → x < s.params.bufBytes) →
      s.writeTarget v t = s ∨ (∃ r, t = .reg r ∧ s.writeTarget v t = s.writeReg v r) ∨
      (s.status.busy = false ∧ ∃ x b, x < s.params.bufBytes ∧ s.writeTarget v t = { s with buf := Memory.write x b s.buf }) ∨
      (s.status.busy = true ∧ s.writeTarget v t = s.dropWrite) := by
    intro v t ht
    cases t with
    | reg r => exact .inr (.inl ⟨r, rfl, rfl⟩)
    | byte x =>
      rcases hb : s.status.busy with _ | _
      · exact .inr (.inr (.inl ⟨rfl, x, v.setWidth 8, ht x rfl, by simp [State.writeTarget, State.writeWhenIdle, hb]⟩))
      · exact .inr (.inr (.inr ⟨rfl, by simp [State.writeTarget, State.writeWhenIdle, hb]⟩))
    | reserved => exact .inl rfl
    | malformed => exact .inl rfl
  cases a with
  | r8 o => exact .inl ⟨_, rfl⟩
  | r16 o => exact .inl ⟨_, rfl⟩
  | r32 o => exact .inl ⟨_, rfl⟩
  | w8 o v =>
    rcases w (v.setWidth 32) (busTarget s.params .bits8 o) fun x h => busTarget_byte_lt h with h | ⟨r, hr, -⟩ | h
    · exact .inr (.inl h)
    · exact absurd (busTarget_reg hr).1 (by decide)
    · exact .inr (.inr (.inr h))
  | w16 o v =>
    rcases w (v.setWidth 32) (busTarget s.params .bits16 o) fun x h => busTarget_byte_lt h with h | ⟨r, hr, -⟩ | h
    · exact .inr (.inl h)
    · exact absurd (busTarget_reg hr).1 (by decide)
    · exact .inr (.inr (.inr h))
  | w32 o v =>
    rcases w v (busTarget s.params .bits32 o) fun x h => busTarget_byte_lt h with h | ⟨r, hr, h⟩ | h
    · exact .inr (.inl h)
    · exact .inr (.inr (.inl ⟨v, r, by rw [(busTarget_reg hr).2], h⟩))
    · exact .inr (.inr (.inr h))

/-- The host's move is nothing, or the bus access its script comes to next, or a STATUS read that leaves the script where
it is or moves it past a `wait`. -/
theorem State.hostMove_cases (s : State) :
    (s.script = [] ∧ s.hostMove = s) ∨
    (∃ a rest, s.script = .access a :: rest ∧ s.hostMove = State.bus { s with script := rest } a) ∨
    (∃ rest l, s.script = .wait :: rest ∧ (l = s.script ∨ l = rest) ∧
      s.hostMove = State.bus { s with script := l } readStatus) := by
  unfold State.hostMove
  split
  · exact .inl ⟨by assumption, rfl⟩
  · exact .inr (.inl ⟨_, _, by assumption, rfl⟩)
  · refine .inr (.inr ⟨_, _, by assumption, ?_, rfl⟩)
    split
    · exact .inl rfl
    · exact .inr rfl

end Sys2Proof.Machine
end

