-- ==== Sys2Proof/Laws/Bus.lean ====
section
/-! SUPPORT. What each window offset reaches, and what a read does, said once. -/

namespace Sys2Proof.Machine

/-! The register window (spec 10_state.md R22). -/

@[simp] theorem busTarget_ID (p : Params) : busTarget p .bits32 0#25 = .reg .ID := rfl
@[simp] theorem busTarget_CAP (p : Params) : busTarget p .bits32 4#25 = .reg .CAP := rfl
@[simp] theorem busTarget_CTRL (p : Params) : busTarget p .bits32 8#25 = .reg .CTRL := rfl
@[simp] theorem busTarget_STATUS (p : Params) : busTarget p .bits32 12#25 = .reg .STATUS := rfl
@[simp] theorem busTarget_CMD (p : Params) : busTarget p .bits32 16#25 = .reg .CMD := rfl
@[simp] theorem busTarget_SRC (p : Params) : busTarget p .bits32 20#25 = .reg .SRC := rfl
@[simp] theorem busTarget_DST (p : Params) : busTarget p .bits32 24#25 = .reg .DST := rfl
@[simp] theorem busTarget_LEN (p : Params) : busTarget p .bits32 28#25 = .reg .LEN := rfl
@[simp] theorem busTarget_DATA (p : Params) : busTarget p .bits32 32#25 = .reg .DATA := rfl
@[simp] theorem busTarget_X0 (p : Params) : busTarget p .bits32 36#25 = .reg .X0 := rfl
@[simp] theorem busTarget_X1 (p : Params) : busTarget p .bits32 40#25 = .reg .X1 := rfl
@[simp] theorem busTarget_WRAP (p : Params) : busTarget p .bits32 44#25 = .reg .WRAP := rfl
@[simp] theorem busTarget_COL (p : Params) : busTarget p .bits32 48#25 = .reg .COL := rfl
@[simp] theorem busTarget_OLEN (p : Params) : busTarget p .bits32 52#25 = .reg .OLEN := rfl
@[simp] theorem busTarget_AUX (p : Params) : busTarget p .bits32 56#25 = .reg .AUX := rfl
@[simp] theorem busTarget_ERRINFO (p : Params) : busTarget p .bits32 60#25 = .reg .ERRINFO := rfl

/-- A byte access in the BUF window reaches the byte it names (20_memory.md R61, R69). -/
theorem busTarget_bufByte (p : Params) {a : Nat} (h : a < p.bufBytes) (h24 : a < 2 ^ 24) :
    busTarget p .bits8 (BitVec.ofNat 25 (0x1000000 + a)) = .byte a := by
  have e : (BitVec.ofNat 25 (0x1000000 + a)).toNat = 0x1000000 + a := by simp; omega
  simp only [busTarget, e, bufWindow]
  rw [if_neg (by omega), if_neg (by omega), Nat.add_sub_cancel_left, if_pos h]
  simp

/-- An 8- or 16-bit access in the register window is malformed (R68). -/
theorem busTarget_narrow (p : Params) {w : Width} {o : Offset} (hw : w ≠ .bits32) (ho : o.toNat < 0x100) :
    busTarget p w o = .malformed := by
  simp [busTarget, ho, hw]

/-- An access in the register window at an offset that is no multiple of 4 is malformed (R68). -/
theorem busTarget_unaligned (p : Params) {w : Width} {o : Offset} (ho : o.toNat < 0x100) (h4 : o.toNat % 4 ≠ 0) :
    busTarget p w o = .malformed := by
  simp [busTarget, ho, h4]

/-- A 16- or 32-bit access to a byte of BUF is malformed (R69). -/
theorem busTarget_wide (p : Params) {w : Width} {o : Offset} (hw : w ≠ .bits8) (hlo : 0x1000000 ≤ o.toNat)
    (hhi : o.toNat < 0x1000000 + p.bufBytes) : busTarget p w o = .malformed := by
  unfold busTarget bufWindow
  dsimp only
  rw [if_neg (by omega), if_neg (by omega), if_pos (by omega), if_neg hw]

/-- A read of a reserved offset, or a malformed read, returns 0 and takes no free value (R68, R69, R73). -/
theorem State.hostRead_zero (s : State) (a : Access) {t : Target} (h : t = .reserved ∨ t = .malformed) :
    s.hostRead a t = s.answered a 0 := by
  rcases h with rfl | rfl <;> rfl

/-- A read of a register that is not hidden returns its value and takes no free value (R77). -/
theorem State.hostRead_reg (s : State) (a : Access) {r : RegName} (h : (s.status.busy && r.hiddenWhileBusy) = false) :
    s.hostRead a (.reg r) = s.answered a (s.regValue r) := by
  simp [State.hostRead, State.readValue, State.readDraws, h, State.answered]

/-- BUSY is bit 0 of STATUS as read (R27). -/
@[simp] theorem Status.word_bit0 (t : Status) : t.word[0] = t.busy := by
  cases t with
  | mk b d o e => cases b <;> cases d <;> cases o <;> cases e <;> decide

end Sys2Proof.Machine
end

