-- ==== Sys2Proof/Laws/Commands.lean ====
section
/-! SUPPORT. How each shape of command ends, said once in the terms of Safety.lean: the error completion, the register
forms, the transfers and the filters; and X as a list of bytes. Later proofs cite these and do not unfold the shapes. -/

namespace Sys2Proof.Machine

/-- With parameters the spec allows, BUF_BYTES is from 2^8 to 2^24. -/
theorem Params.bufBytes_bounds {p : Params} (h : p.wf = true) : 2 ^ 8 ≤ p.bufBytes ∧ p.bufBytes ≤ 2 ^ 24 := by
  simp only [Params.wf, decide_eq_true_eq] at h
  exact ⟨Nat.pow_le_pow_right (by decide) h.1, Nat.pow_le_pow_right (by decide) h.2.1⟩

/-- A count below 2^32 is what the register holds. -/
theorem countWord_toNat {n : Nat} (h : n < 2 ^ 32) : (countWord n).toNat = n := by
  simp only [countWord, BitVec.toNat_ofNat]
  exact Nat.mod_eq_of_lt h

/-- An error completion changes STATUS, OLEN, AUX and ERRINFO only, whatever free values were taken before it. -/
theorem State.raiseErr_failed (s : State) (n : Nat) (e : ErrCode) (info : Word) :
    FailedWith s (s.raiseErr e info) e info ∧ FailedWith s ((s.draw n).raiseErr e info) e info := by
  refine ⟨⟨⟨rfl, rfl, rfl, rfl⟩, ?_, ⟨rfl, rfl, rfl, rfl⟩, fun _ => rfl, rfl, rfl⟩,
    ⟨⟨rfl, rfl, rfl, rfl⟩, ?_, ⟨rfl, rfl, rfl, rfl⟩, fun _ => rfl, rfl, rfl⟩⟩ <;>
  exact ⟨rfl, rfl, rfl, rfl, rfl, rfl, rfl, rfl, rfl, rfl, rfl⟩

/-- A register-form command succeeds with the counts it names. -/
theorem State.registerForm_succeeded (s : State) (d x y : Word) {n a : Nat} (hn : n < 2 ^ 32) (ha : a < 2 ^ 32) :
    Succeeded s ({ s with data := d, x0 := x, x1 := y }.setResult n a).complete n a :=
  ⟨⟨rfl, rfl, rfl, rfl⟩, ⟨rfl, rfl, rfl, rfl, rfl, rfl, rfl, rfl, rfl, rfl, rfl⟩, countWord_toNat hn, countWord_toNat ha⟩

/-- A transfer that delivers has succeeded, when the destination lies in BUF. -/
theorem State.delivered_done (s : State) (c : Chunk) (n : Nat) (hw : s.params.wf = true)
    (hd : s.dst.toNat + c.out.length ≤ s.params.bufBytes) (ha : c.aux < 2 ^ 32) :
    TransferDone s ((s.draw n).delivered c) c := by
  have hb := (Params.bufBytes_bounds hw).2
  refine ⟨⟨⟨rfl, rfl, rfl, rfl⟩, ⟨rfl, rfl, rfl, rfl, rfl, rfl, rfl, rfl, rfl, rfl, rfl⟩,
    countWord_toNat (by omega), countWord_toNat ha⟩, ⟨fun i hi => ?_, fun x hx => ?_⟩, rfl, rfl, rfl⟩
  · show Memory.read? (Memory.writeBytes s.buf s.dst.toNat c.out) (s.dst.toNat + i) = _
    rw [Memory.read?_writeBytes, if_pos (by omega), Nat.add_sub_cancel_left]
  · show Memory.read? (Memory.writeBytes s.buf s.dst.toNat c.out) x = _
    rw [Memory.read?_writeBytes, if_neg (by omega)]

/-- A filter that completes has written the bytes it keeps at SRC and nothing else. -/
theorem State.filtered_done (s : State) (k : List Byte) (n : Nat) (hw : s.params.wf = true)
    (hk : k.length ≤ s.len.toNat) (hs : s.src.toNat + s.len.toNat ≤ s.params.bufBytes) :
    Succeeded s ((s.draw n).filtered k) k.length (s.len.toNat - k.length) ∧
    WroteAt s ((s.draw n).filtered k) s.src.toNat k ∧ SameData s ((s.draw n).filtered k) := by
  have hb := (Params.bufBytes_bounds hw).2
  refine ⟨⟨⟨rfl, rfl, rfl, rfl⟩, ⟨rfl, rfl, rfl, rfl, rfl, rfl, rfl, rfl, rfl, rfl, rfl⟩,
    countWord_toNat (by omega), countWord_toNat ?_⟩, ⟨fun i hi => ?_, fun x hx => ?_⟩, rfl, rfl, rfl, rfl⟩
  · show s.len.toNat - k.length < 2 ^ 32
    omega
  · show Memory.read? (Memory.writeBytes s.buf s.src.toNat k) (s.src.toNat + i) = _
    rw [Memory.read?_writeBytes, if_pos (by omega), Nat.add_sub_cancel_left]
  · show Memory.read? (Memory.writeBytes s.buf s.src.toNat k) x = _
    rw [Memory.read?_writeBytes, if_neg (by omega)]

/-- A transfer command is its transfer, unless it is WRAP with invalid operands. -/
theorem exec_of_transferOf {s : State} {i : Instr} {f : List Byte → Except Nat Chunk} (h : transferOf s i = some f)
    (hp : ¬ (i = .wrap ∧ WrapParamBad s)) : exec i s = .next (s.transcode f) := by
  cases i <;> simp [transferOf] at h <;> subst h <;> try rfl
  show execWrap s = _
  unfold execWrap
  exact if_neg fun hb => hp ⟨rfl, hb⟩

/-- A filter command is its filter. -/
theorem exec_of_filterOf (s : State) {i : Instr} {keep : Nat → Bool} (h : filterOf i = some keep) :
    exec i s = .next (s.filterInPlace fun b => keep b.toNat) := by
  have e1 : (fun b : Byte => decide (0x21 ≤ b.toNat ∧ b.toNat ≤ 0x75)) = keep85 := by funext b; revert b; decide
  have e2 : (fun b : Byte => decide (0x21 ≤ b.toNat ∧ b.toNat ≤ 0x75 ∨ b.toNat = 0x7A)) = keep85z := by
    funext b; revert b; decide
  have e3 : (fun b : Byte => decide (b.toNat = 0x30 ∨ b.toNat = 0x31)) = keepbin := by funext b; revert b; decide
  cases i <;> simp only [filterOf, Option.some.injEq, reduceCtorEq] at h <;> subst h
  · rw [e1]; rfl
  · rw [e2]; rfl
  · rw [e3]; rfl

/-- X, after a list of bytes was written to it: the list, and zeros behind it. -/
theorem State.setX_xByte (s : State) (l : List Byte) {i : Nat} (hi : i < 8) : (s.setX l).xByte i = l.getD i 0 := by
  have h : ∀ a b c d : Byte, (be32 a b c d).extractLsb' 24 8 = a ∧ (be32 a b c d).extractLsb' 16 8 = b ∧
      (be32 a b c d).extractLsb' 8 8 = c ∧ (be32 a b c d).extractLsb' 0 8 = d := by
    intro a b c d
    unfold be32
    refine ⟨?_, ?_, ?_, ?_⟩ <;> (ext j hj; simp; try grind)
  unfold State.xByte State.setX
  interval_cases i <;> simp [h]

/-- X is not touched by the counts and the completion. -/
@[simp] theorem State.complete_xByte (s : State) (n a i : Nat) : (s.setResult n a).complete.xByte i = s.xByte i := rfl

/-- Two states with the same bytes in the source range, and the same free values to come, give a command the same input. -/
theorem State.input_congr {s t : State} (hd : t.draws = s.draws) (hs : t.src = s.src) (hl : t.len = s.len)
    (h : ∀ a, s.src.toNat ≤ a → a < s.src.toNat + s.len.toNat → Memory.read? t.buf a = Memory.read? s.buf a) :
    t.input = s.input := by
  unfold State.input State.memRead
  rw [hs, hl, hd]
  refine List.map_congr_left fun i hi => ?_
  have := List.mem_range.1 hi
  rw [h _ (by omega) (by omega)]

end Sys2Proof.Machine
end

