-- ==== Sys2Proof/Laws/Decode.lean ====
section
/-! SUPPORT. The fields of a command word as arithmetic on its value, and the decoder's table read both ways
(spec 30_encoding.md R85 to R91). -/

namespace Sys2Proof

theorem rsvField_eq_zero_iff (w : Word) : rsvField w = 0 ↔ w.toNat / 512 = 0 := by
  simp only [rsvField]
  constructor
  · intro h
    have := congrArg BitVec.toNat h
    simp [BitVec.extractLsb'_toNat, Nat.shiftRight_eq_div_pow] at this
    omega
  · intro h
    apply BitVec.eq_of_toNat_eq
    simp [BitVec.extractLsb'_toNat, Nat.shiftRight_eq_div_pow]
    omega

theorem opField_toNat (w : Word) : (opField w).toNat = w.toNat % 256 := by
  simp [opField, BitVec.extractLsb'_toNat]

theorem zField_eq (w : Word) : zField w = decide (w.toNat / 256 % 2 = 1) := by
  simp [zField, BitVec.getLsbD, Nat.testBit, Nat.shiftRight_eq_div_pow, Nat.one_and_eq_mod_two]
  rfl

/-- A row of the table is selected exactly by the OP and Z of its word. -/
theorem decodeOp_eq_ok_iff (op : Nat) (z : Bool) (i : Instr) :
    decodeOp op z = .ok i ↔
      op = (encode i).toNat % 256 ∧ z = decide ((encode i).toNat / 256 % 2 = 1) := by
  by_cases h : op < 12
  · interval_cases op <;> cases z <;> cases i <;> decide
  · constructor
    · intro hh
      unfold decodeOp at hh
      split at hh <;> first | omega | skip
      simp [h] at hh
    · rintro ⟨rfl, -⟩
      exact absurd (by cases i <;> decide) h

/-- No row is selected exactly when OP is unassigned, or Z is 1 with an OP that has no 'z' variant (R86, R87). -/
theorem decodeOp_eq_error_iff (op : Nat) (z : Bool) :
    (∃ e, decodeOp op z = .error e) ↔ 12 ≤ op ∨ (z = true ∧ op ∉ [1, 3, 4, 9]) := by
  by_cases h : op < 12
  · interval_cases op <;> cases z <;> simp [decodeOp]
  · have no : ∀ i, decodeOp op z ≠ .ok i := by
      intro i hi
      rw [decodeOp_eq_ok_iff] at hi
      apply h
      rw [hi.1]
      cases i <;> decide
    refine ⟨fun _ => .inl (by omega), fun _ => ?_⟩
    cases h' : decodeOp op z with
    | error e => exact ⟨e, rfl⟩
    | ok i => exact absurd h' (no i)

theorem decode_of_rsv {p : Params} {w : Word} (h : rsvField w ≠ 0) : decode p w = .error .reservedBits := by
  unfold decode
  rw [if_pos h]

theorem decode_of_rowError {p : Params} {w : Word} {e : Illegal} (h : rsvField w = 0)
    (hd : decodeOp (opField w).toNat (zField w) = .error e) : decode p w = .error e := by
  simp [decode, h, hd]

theorem decode_of_row {p : Params} {w : Word} {i : Instr} (h : rsvField w = 0)
    (hd : decodeOp (opField w).toNat (zField w) = .ok i) :
    decode p w = if i.wf p then .ok i else .error .bitsAbsent := by
  simp [decode, h, hd]

end Sys2Proof
end

