-- ==== Sys2Proof/Laws/PerInstr.lean ====
section
/-! SUPPORT. Per command: the fields of its word (spec 30_encoding.md R85 to R88): RSV is 0, OP is assigned, and Z is 1
only with the OPs that have a 'z' variant. -/

namespace Sys2Proof.Laws.Fields

/-- RSV = 0, OP below 0x0C, and Z = 1 only with OP 0x01, 0x03, 0x04, 0x09 (R86 to R88). -/
def Statement (i : Instr) : Prop :=
  rsvField (encode i) = 0 ∧ (opField (encode i)).toNat < 0x0C ∧
  (zField (encode i) = true → (opField (encode i)).toNat ∈ [0x01, 0x03, 0x04, 0x09])

theorem nop : Statement .nop := by unfold Statement; decide
theorem tenc : Statement .tenc := by unfold Statement; decide
theorem tencz : Statement .tencz := by unfold Statement; decide
theorem tdec : Statement .tdec := by unfold Statement; decide
theorem enc : Statement .enc := by unfold Statement; decide
theorem encz : Statement .encz := by unfold Statement; decide
theorem dec : Statement .dec := by unfold Statement; decide
theorem decz : Statement .decz := by unfold Statement; decide
theorem benc : Statement .benc := by unfold Statement; decide
theorem bdec : Statement .bdec := by unfold Statement; decide
theorem bencb : Statement .bencb := by unfold Statement; decide
theorem bdecb : Statement .bdecb := by unfold Statement; decide
theorem filt85 : Statement .filt85 := by unfold Statement; decide
theorem filt85z : Statement .filt85z := by unfold Statement; decide
theorem filtbin : Statement .filtbin := by unfold Statement; decide
theorem wrap : Statement .wrap := by unfold Statement; decide

end Sys2Proof.Laws.Fields
end

