-- ==== Sys2Proof/Tests/Slice0.lean ====
section
/-! SUPPORT. Tests: decoding of words written out from the spec's encodings, ill-formed terms, one step per command on
values of spec 95_test_vectors.md, and for each obligation with hypotheses a concrete state and operands that meet them. -/

namespace Sys2Proof.Tests

open Sys2Proof Sys2Proof.Machine

/-! ### Small states -/

/-- An instance without the bit-to-ASCII commands. -/
def noBits : Params := { Params.default with hasBits := false }

/-- The smallest and the largest buffer. -/
def small : Params := { Params.default with bufLog2 := 8 }
def large : Params := { Params.default with bufLog2 := 24 }

/-- The machine after reset, with the bytes `l` written at `a`, and SRC, LEN and DST set. -/
def loaded (a : Nat) (l : List Byte) (src len dst : Word) : State :=
  { State.reset with buf := Memory.writeBytes [] a l, src := src, len := len, dst := dst }

/-- The bytes of `text` at address 0, all of them the source range, and DST. -/
def text (l : String) (dst : Word) : State := loaded 0 (asciiBytes l) 0 (BitVec.ofNat 32 l.length) dst

/-- The state after a command. -/
def after (i : Instr) (s : State) : State :=
  match exec i s with
  | .next t => t
  | .fault f => nomatch f
  | .refused _ => s

/-- The state after a step. -/
def stepped (s : State) : State :=
  match step s with
  | .next t => t
  | .fault f => nomatch f
  | .refused _ => s

/-- The bytes of BUF from `a` on, as far as they are written. -/
def bytesAt (s : State) (a n : Nat) : List (Option Byte) := (List.range n).map fun i => Memory.read? s.buf (a + i)

/-- The bytes of a text, as `bytesAt` gives them. -/
def written (l : String) : List (Option Byte) := (asciiBytes l).map some

/-! ### Encoding: the words of 30_encoding.md R85 and R90, bit by bit (RSV 31:9, Z 8, OP 7:0) -/

theorem test_decode_nop : decode Params.default 0b00000000000000000000000_0_00000000 = .ok .nop := by decide
theorem test_decode_tenc : decode Params.default 0b00000000000000000000000_0_00000001 = .ok .tenc := by decide
theorem test_decode_tencz : decode Params.default 0b00000000000000000000000_1_00000001 = .ok .tencz := by decide
theorem test_decode_tdec : decode Params.default 0b00000000000000000000000_0_00000010 = .ok .tdec := by decide
theorem test_decode_enc : decode Params.default 0b00000000000000000000000_0_00000011 = .ok .enc := by decide
theorem test_decode_encz : decode Params.default 0b00000000000000000000000_1_00000011 = .ok .encz := by decide
theorem test_decode_dec : decode Params.default 0b00000000000000000000000_0_00000100 = .ok .dec := by decide
theorem test_decode_decz : decode Params.default 0b00000000000000000000000_1_00000100 = .ok .decz := by decide
theorem test_decode_benc : decode Params.default 0b00000000000000000000000_0_00000101 = .ok .benc := by decide
theorem test_decode_bdec : decode Params.default 0b00000000000000000000000_0_00000110 = .ok .bdec := by decide
theorem test_decode_bencb : decode Params.default 0b00000000000000000000000_0_00000111 = .ok .bencb := by decide
theorem test_decode_bdecb : decode Params.default 0b00000000000000000000000_0_00001000 = .ok .bdecb := by decide
theorem test_decode_filt85 : decode Params.default 0b00000000000000000000000_0_00001001 = .ok .filt85 := by decide
theorem test_decode_filt85z : decode Params.default 0b00000000000000000000000_1_00001001 = .ok .filt85z := by decide
theorem test_decode_filtbin : decode Params.default 0b00000000000000000000000_0_00001010 = .ok .filtbin := by decide
theorem test_decode_wrap : decode Params.default 0b00000000000000000000000_0_00001011 = .ok .wrap := by decide

/-- 95_test_vectors.md 2.6: the illegal words, each with its cause. -/
theorem test_decode_illegal :
    decode Params.default 0x0000000C = .error .unassignedOp ∧ decode Params.default 0x000000FF = .error .unassignedOp ∧
    decode Params.default 0x00000100 = .error .noShorthandVariant ∧
    decode Params.default 0x00000102 = .error .noShorthandVariant ∧
    decode Params.default 0x0000010B = .error .noShorthandVariant ∧
    decode Params.default 0x00000203 = .error .reservedBits ∧ decode Params.default 0x80000003 = .error .reservedBits := by
  decide

/-- 2.3: with HAS_BITS = 0 the words 0x05 to 0x08 are illegal. -/
theorem test_decode_without_bits :
    decode noBits 0x00000005 = .error .bitsAbsent ∧ decode noBits 0x00000008 = .error .bitsAbsent ∧
    decode noBits 0x00000004 = .ok .dec ∧ decode noBits 0x00000009 = .ok .filt85 := by decide

/-- R96: mnemonics, and no other spelling. -/
theorem test_assemble : assemble "ENCZ" = some 0x00000103 ∧ assemble "encz" = none ∧ assemble "ENCZ " = none := by decide

theorem test_decode_table_word : decodeTableWord 32 0x109 = some .filt85z ∧ decodeTableWord 32 0x10B = none := by decide

/-! ### Well-formedness: each check refuses an ill-formed term -/

/-- R5: the bit-to-ASCII commands do not exist with HAS_BITS = 0. -/
theorem test_wf_needs_bits :
    Instr.wf noBits .benc = false ∧ Instr.wf noBits .bdec = false ∧ Instr.wf noBits .bencb = false ∧
    Instr.wf noBits .bdecb = false ∧ Instr.wf noBits .enc = true := by decide

/-- R7, R8: BUF_BYTES from 2^8 to 2^24, FILT_BLOCK positive. -/
theorem test_wf_params :
    Params.wf { Params.default with bufLog2 := 7 } = false ∧ Params.wf { Params.default with bufLog2 := 25 } = false ∧
    Params.wf { Params.default with filtBlock := 0 } = false ∧ Params.wf small = true ∧ Params.wf large = true := by decide

/-- The canonical form refuses a repeated and an unordered address. -/
theorem test_wf_memory :
    Memory.wf [(1, 0x00), (1, 0x01)] = false ∧ Memory.wf [(2, 0x00), (1, 0x01)] = false ∧
    Memory.wf [(1, 0x00), (2, 0x01)] = true := by decide

/-! ### Commands: the vectors of 95_test_vectors.md part 2 -/

theorem test_tenc :
    (after .tenc { State.reset with data := 0x4D616E20 }).x0 = 0x396A716F ∧
    (after .tenc { State.reset with data := 0x4D616E20 }).x1 = 0x5E000000 ∧
    (after .tenc { State.reset with data := 0x4D616E20 }).olen = 5 := by decide

theorem test_tenc_largest :
    (after .tenc { State.reset with data := 0xFFFFFFFF }).x0 = 0x7338572D ∧
    (after .tenc { State.reset with data := 0xFFFFFFFF, x1 := 0x00112233 }).x1 = 0x21000000 := by decide

theorem test_tencz_zero :
    (after .tencz { State.reset with x1 := 0x11223344 }).x0 = 0x7A000000 ∧
    (after .tencz { State.reset with x1 := 0x11223344 }).x1 = 0 ∧
    (after .tencz { State.reset with x1 := 0x11223344 }).olen = 1 := by decide

theorem test_tencz_one :
    (after .tencz { State.reset with data := 1 }).x1 = 0x22000000 ∧
    (after .tencz { State.reset with data := 1 }).olen = 5 := by decide

theorem test_tdec_wraps :
    (after .tdec { State.reset with x0 := 0x75757575, x1 := 0x75123456 }).data = 0x08780EC4 := by decide

theorem test_tdec_below_alphabet :
    (after .tdec { State.reset with x0 := 0x20202020, x1 := 0x20000000 }).data = 0xFCD9FFD3 ∧
    (after .tdec State.reset).data = 0x9819FA33 := by decide

theorem test_enc : bytesAt (after .enc (text "Man is" 0x100)) 0x100 9 = written "9jqo^Bla" ++ [none] ∧
    (after .enc (text "Man is" 0x100)).olen = 8 ∧ (after .enc (text "Man is" 0x100)).aux = 2 := by decide

/-- The output may end exactly at the end of BUF; one byte further is BOUNDS with ERRINFO 1. -/
theorem test_enc_at_end : (after .enc (text "abcd" 0xFFFB)).status.err = .none ∧
    (after .enc (text "abcd" 0xFFFC)).status.err = .bounds ∧ (after .enc (text "abcd" 0xFFFC)).errinfo = 1 := by decide

theorem test_encz_partial_zero :
    bytesAt (after .encz (loaded 0 [0, 0, 0, 0, 0] 0 5 0x10)) 0x10 3 = written "z!!" ∧
    (after .encz (loaded 0 [0, 0, 0, 0, 0] 0 5 0x10)).aux = 3 := by decide

theorem test_encz_two_zeros : bytesAt (after .encz (loaded 0 [0, 0] 0 2 0x10)) 0x10 3 = written "!!!" := by decide

theorem test_dec : bytesAt (after .dec (text "@:E^" 0x10)) 0x10 4 = written "abc" ++ [none] ∧
    (after .dec (text "@:E^" 0x10)).aux = 1 := by decide

theorem test_dec_z_is_a_digit : (after .dec (text "z" 0x10)).olen = 0 ∧ (after .dec (text "z" 0x10)).aux = 4 ∧
    (after .dec (text "z" 0x10)).status.err = .none := by decide

theorem test_decz :
    bytesAt (after .decz (text "z9jqo^z" 0x10)) 0x10 12 =
      [some 0, some 0, some 0, some 0] ++ written "Man " ++ [some 0, some 0, some 0, some 0] := by decide

theorem test_decz_misplaced : (after .decz (text "9jqo^9z" 0x10)).status.err = .zpos ∧
    (after .decz (text "9jqo^9z" 0x10)).errinfo = 6 ∧ (after .decz (text "9jqo^9z" 0x10)).olen = 0 := by decide

theorem test_benc : (after .benc { State.reset with data := 0x000001A5 }).x0 = 0x31303130 ∧
    (after .benc { State.reset with data := 0x000001A5 }).x1 = 0x30313031 := by decide

theorem test_bdec : (after .bdec { State.reset with x0 := 0x61626364, x1 := 0x65666768, data := 0xFFFFFFFF }).data =
    0x000000AA := by decide

theorem test_bencb : bytesAt (after .bencb (loaded 0 [0x4D] 0 1 0x10)) 0x10 8 = written "01001101" ∧
    (after .bencb (loaded 0 [0x4D] 0 1 0x10)).olen = 8 := by decide

theorem test_bencb_bounds : (after .bencb (loaded 0 [] 0 0x20000000 0)).status.err = .bounds ∧
    (after .bencb (loaded 0 [] 0 0x20000000 0)).errinfo = 0 := by decide

theorem test_bdecb : bytesAt (after .bdecb (text "0100110101" 0x30)) 0x30 2 = [some 0x4D, none] ∧
    (after .bdecb (text "0100110101" 0x30)).olen = 1 ∧ (after .bdecb (text "0100110101" 0x30)).aux = 2 := by decide

theorem test_filt85 : bytesAt (after .filt85 (text "9j q\no^z" 0)) 0 8 = written "9jqo^o^z" ∧
    (after .filt85 (text "9j q\no^z" 0)).olen = 5 ∧ (after .filt85 (text "9j q\no^z" 0)).aux = 3 := by decide

theorem test_filt85z : bytesAt (after .filt85z (text "9j q\no^z" 0)) 0 8 = written "9jqo^z^z" ∧
    (after .filt85z (text "9j q\no^z" 0)).olen = 6 := by decide

theorem test_filtbin : bytesAt (after .filtbin (loaded 0 [0xB0, 0xB1, 0x30, 0x31, 0x32, 0x2F] 0 6 0)) 0 6 =
    [some 0x30, some 0x31, some 0x30, some 0x31, some 0x32, some 0x2F] := by decide

theorem test_wrap :
    bytesAt (after .wrap { text "ABCDEF" 0x20 with wrap := 4 }) 0x20 7 = written "ABCD\nEF" ∧
    (after .wrap { text "ABCDEF" 0x20 with wrap := 4 }).aux = 1 ∧
    (after .wrap { text "ABCDEF" 0x20 with wrap := 4 }).col = 2 := by decide

theorem test_wrap_param : (after .wrap { text "AB" 0x20 with wrap := 4, col := 4 }).status.err = .param ∧
    (after .wrap { text "AB" 0x20 with wrap := 0, col := 7 }).status.err = .none ∧
    (after .wrap { text "AB" 0x20 with wrap := 0, col := 7 }).col = 7 := by decide

theorem test_nop : (after .nop { State.reset with olen := 7 }).status.word = 0x00000002 ∧
    (after .nop { State.reset with olen := 7 }).olen = 7 := by decide

/-- 2.2: adjacent ranges do not overlap; one byte shared does. -/
theorem test_overlap : (after .enc (text "abcd" 4)).status.err = .none ∧
    (after .enc (text "abcd" 3)).status.err = .overlap ∧
    (after .enc (loaded 0 [] 0xFFFFFFFF 1 0)).status.err = .bounds := by decide

/-! ### Steps and host accesses -/

/-- A step from reset with a word placed by withFetchWord runs that command. -/
theorem test_step_runs_word : stepped (State.reset.withFetchWord 32 0x00000101) =
    after .tencz { State.reset.accept 0x00000101 with turns := [] } := by decide

theorem test_step_illegal_word : (stepped (State.reset.withFetchWord 32 0x00000102)).status.word = 0x00000102 := by decide

/-- R28, R76: the second CMD write, while busy, is lost and shows in OVR. -/
theorem test_cmd_twice : ((State.reset.bus (.w32 0x10 3)).bus (.w32 0x10 4)).cmd = 3 ∧
    ((State.reset.bus (.w32 0x10 3)).bus (.w32 0x10 4)).status.word = 0x00000005 := by decide

theorem test_script_expands : expandScript [.wr .DATA 1, .run .tenc, .rd .X0, .ws 2 "ab"] =
    [.access (.w32 0x20 1), .access (.w32 0x10 1), .wait, .access (.r32 0x24),
     .access (.w8 0x1000002 0x61), .access (.w8 0x1000003 0x62)] := by decide

/-! ### Witnesses: for each obligation with hypotheses, values that meet them -/

/-- ENC of "abcd" to 0x10, accepted, with the unit's turn next. -/
def flying : State := { (text "abcd" 0x10).accept 3 with turns := [.unit] }

/-- The same, with the host's turns and accesses before the unit's. -/
def contended : State :=
  { flying with turns := [.host, .host, .unit], script := [.access (.w32 0x14 9), .wait, .access (.w32 0x08 1)] }

theorem witness_IllegalWordCompletesWithIllegal :
    State.reset.status.busy = false ∧ IllegalWord Params.default 0x00000200 ∧ IllegalWord Params.default 0x0000000C ∧
    IllegalWord Params.default 0x00000100 ∧ IllegalWord noBits 0x00000005 ∧ IllegalWord noBits 0x00000008 := by
  unfold IllegalWord; decide

theorem witness_StepRunsDecodedCommand :
    flying.nextTurn = .unit ∧ flying.status.busy = true ∧ decode flying.params flying.cmd = .ok .enc := by decide

theorem witness_HostTurnTakesOneAccess :
    contended.nextTurn = .host ∧ contended.script = .access (.w32 0x14 9) :: [.wait, .access (.w32 0x08 1)] := by decide

theorem witness_WaitReadsStatusUntilIdle :
    (stepped contended).nextTurn = .host ∧ (stepped contended).script = .wait :: [.access (.w32 0x08 1)] ∧
    (stepped contended).status.busy = true := by decide

theorem not_softReset (a : Access) (h : ∀ v, a = .w32 0x08 v → v.getLsbD 1 = false) : ¬ SoftResetAccess a := by
  rintro ⟨v, rfl, hv⟩
  exact absurd (hv.symm.trans (h v rfl)) (by decide)

theorem witness_AcceptedCommandIsExecuted :
    contended.status.busy = true ∧ Turn.powerOn ∉ contended.turns ∧
    ∀ a, HostAction.access a ∈ contended.script → ¬ SoftResetAccess a := by
  refine ⟨rfl, by decide, fun a ha => not_softReset a fun v hv => ?_⟩
  subst hv
  simp [contended] at ha
  subst ha
  decide

/-- DONE rises at the unit's step; BUSY rises at the host's CMD write. -/
theorem witness_DoneAndBusyRiseOnlyAsSpecified :
    (step flying = .next (stepped flying) ∧ flying.status.done = false ∧ (stepped flying).status.done = true) ∧
    step { State.reset with script := [.access (.w32 0x10 3)] } =
      .next (stepped { State.reset with script := [.access (.w32 0x10 3)] }) ∧
    (stepped { State.reset with script := [.access (.w32 0x10 3)] }).status.busy = true := by
  refine ⟨⟨rfl, by decide, by decide⟩, rfl, by decide⟩

theorem witness_StepKeepsInvariant : flying.Inv ∧ step flying = .next (stepped flying) := by
  refine ⟨?_, rfl⟩
  constructor <;> decide

theorem witness_ParametersNeverChange : step contended = .next (stepped contended) := rfl

theorem witness_PowerOnResetValues : ({ flying with turns := [.powerOn, .host] } : State).turns = .powerOn :: [.host] := rfl

theorem witness_SoftResetValues :
    SoftResetAccess (.w32 0x08 0x00000003) ∧ flying.status.busy = true ∧ State.reset.status.busy = false :=
  ⟨⟨_, rfl, by decide⟩, rfl, rfl⟩

theorem witness_RegisterReadsWhileIdle : (text "abcd" 0x10).status.busy = false := rfl

theorem witness_ReadsWhileBusy :
    flying.status.busy = true ∧ (0x38 : Offset) ∈ ([0x20, 0x24, 0x28, 0x30, 0x34, 0x38, 0x3C] : List Offset) ∧
    65535 < flying.params.bufBytes ∧ 65535 < 2 ^ 24 := by decide

theorem witness_CapReportsTheParameters :
    ({ State.reset with params := small } : State).params.wf = true ∧
    ({ State.reset with params := large } : State).params.wf = true := by decide

theorem witness_RegisterWrites : State.reset.status.busy = false := rfl

theorem witness_CommandWriteIsAccepted : (after .nop State.reset).status.busy = false := rfl

theorem witness_WritesWhileBusyAreDropped :
    flying.status.busy = true ∧ (0x30 : Offset) ∈ ([0x10, 0x14, 0x18, 0x1C, 0x20, 0x24, 0x28, 0x2C, 0x30] : List Offset) ∧
    65535 < flying.params.bufBytes ∧ 65535 < 2 ^ 24 ∧ (0x00000001 : Word).getLsbD 1 = false := by decide

theorem witness_ControlRegister : (0xFFFFFFFD : Word).getLsbD 1 = false ∧ (0x00000002 : Word).getLsbD 1 = true := by decide

/-- The ends of the register window and of the BUF part. -/
theorem witness_MalformedAccesses :
    (0x0000000 : Offset).toNat < 0x100 ∧ (0x00000FF : Offset).toNat < 0x100 ∧ (0x00000FF : Offset).toNat % 4 ≠ 0 ∧
    (0x1000000 ≤ (0x1000000 : Offset).toNat ∧ (0x1000000 : Offset).toNat < 0x1000000 + State.reset.params.bufBytes) ∧
    0x1000000 ≤ (0x100FFFF : Offset).toNat ∧ (0x100FFFF : Offset).toNat < 0x1000000 + State.reset.params.bufBytes := by
  decide

/-- The ends of the reserved parts. -/
theorem witness_ReservedOffsets :
    (0x40 ≤ (0x0000040 : Offset).toNat ∧ (0x0000040 : Offset).toNat < 0x1000000) ∧
    (0x40 ≤ (0x0FFFFFF : Offset).toNat ∧ (0x0FFFFFF : Offset).toNat < 0x1000000) ∧
    (0x40 ≤ (0x1010000 : Offset).toNat ∧ 0x1000000 + State.reset.params.bufBytes ≤ (0x1010000 : Offset).toNat) ∧
    0x40 ≤ (0x1FFFFFF : Offset).toNat ∧ 0x1000000 + State.reset.params.bufBytes ≤ (0x1FFFFFF : Offset).toNat := by decide

theorem witness_BufferByteAccesses :
    (text "abcd" 0).status.busy = false ∧ 0 < (text "abcd" 0).params.bufBytes ∧
    65535 < (text "abcd" 0).params.bufBytes ∧ 65535 < 2 ^ 24 ∧ Memory.read? (text "abcd" 0).buf 0 = some 0x61 ∧
    Memory.read? (text "abcd" 0).buf 65535 = none := by decide

theorem witness_InterruptLine :
    exec .nop State.reset = .next (after .nop State.reset) ∧ (0x00000002 : Word).getLsbD 1 = true ∧
    State.reset.status.busy = false ∧ (0x00000002 : Word).getLsbD 0 = false := ⟨rfl, by decide, rfl, by decide⟩

theorem witness_OperandsStandWhileInFlight :
    flying.status.busy = true ∧ ∀ a, a ∈ [Access.w32 0x14 9, .r32 0x0C, .w8 0x1000000 7] → ¬ SoftResetAccess a := by
  refine ⟨rfl, fun a ha => not_softReset a fun v hv => ?_⟩
  subst hv
  simp at ha

theorem witness_VectorBytesAreBigEndian : 0 < 8 ∧ 3 < 8 ∧ 4 < 8 ∧ 7 < 8 := by decide

theorem witness_TupleEncodeCommands :
    ({ State.reset with data := 0x4D616E20 } : State).data ≠ 0 ∧ State.reset.data = 0 ∧ 4 < 5 ∧ 5 ≤ 5 ∧ 7 < 8 := by decide

theorem witness_EncodeChunkTupleByTuple :
    (0 < [(0x61 : Byte)].length ∧ [(0x61 : Byte)].length < 4) ∧ (asciiBytes "abc").length < 4 := by decide

/-- The output ends at the end of BUF, and the input stands right before it. -/
theorem witness_EncodeCommandsComplete :
    (loaded 0xFFF7 (asciiBytes "abcd") 0xFFF7 4 0xFFFB).params.wf = true ∧
    TransferRangesOk (loaded 0xFFF7 (asciiBytes "abcd") 0xFFF7 4 0xFFFB)
      (encChunk (loaded 0xFFF7 (asciiBytes "abcd") 0xFFF7 4 0xFFFB).input false).out.length ∧
    TransferRangesOk (loaded 0xFFF7 (asciiBytes "abcd") 0xFFF7 4 0xFFFB)
      (encChunk (loaded 0xFFF7 (asciiBytes "abcd") 0xFFF7 4 0xFFFB).input true).out.length := by
  unfold TransferRangesOk; decide

theorem witness_DecodeChunkGroupByGroup :
    (0x7A : Byte) ∉ asciiBytes "9jqo^" ∧
    (0 < (asciiBytes "9").length ∧ (asciiBytes "9").length < 5 ∧ (0x7A : Byte) ∉ asciiBytes "9") ∧
    (0 < (asciiBytes "9jqo").length ∧ (asciiBytes "9jqo").length < 5 ∧ (0x7A : Byte) ∉ asciiBytes "9jqo") := by decide

/-- DECZ's input holds a 'z' before a group, and one after it. -/
def decodable : State := text "z9jqo^z" 0x10

theorem witness_DecodeCommandsComplete :
    decodable.params.wf = true ∧ (∀ i, ¬ FirstMisplacedZ decodable.input i) ∧
    (∃ c, decChunk decodable.input false = .ok c ∧ TransferRangesOk decodable c.out.length) ∧
    ∃ c, decChunk decodable.input true = .ok c ∧ TransferRangesOk decodable c.out.length := by
  refine ⟨by decide, ?_, ⟨_, rfl, by unfold TransferRangesOk; decide⟩, ⟨_, rfl, by unfold TransferRangesOk; decide⟩⟩
  rintro i ⟨hi, hz, hm, -⟩
  have h : ∀ j, j < decodable.input.length → decodable.input[j]? = some chZ → nonZBefore decodable.input j % 5 = 0 := by
    decide
  exact hm (h i hi hz)

theorem witness_MisplacedZIsReported :
    (text "9jzqo^" 0x10).src.toNat + (text "9jzqo^" 0x10).len.toNat ≤ (text "9jzqo^" 0x10).params.bufBytes ∧
    FirstMisplacedZ (text "9jzqo^" 0x10).input 2 := by unfold FirstMisplacedZ; decide

theorem witness_OutputLengths :
    (∃ c, decChunk (asciiBytes "9jqo^Bl") false = .ok c) ∧ ∃ c, decChunk (asciiBytes "z9jqo^") true = .ok c :=
  ⟨⟨_, rfl⟩, ⟨_, rfl⟩⟩

theorem witness_ChunksConcatenate :
    (∀ c, c ∈ [asciiBytes "abcd", asciiBytes "", asciiBytes "abcdefgh"] → c.length % 4 = 0) ∧
    (∀ c, c ∈ [asciiBytes "9jqo^", asciiBytes ""] → c.length % 5 = 0) ∧ (∃ c, decChunk (asciiBytes "@:") false = .ok c) ∧
    (∀ c, c ∈ [asciiBytes "z9jqo^z", asciiBytes "zz"] → ∃ d, decChunk c true = .ok d ∧ d.aux = 0) ∧
    (∃ c, decChunk (asciiBytes "@:") true = .ok c) ∧
    ∃ ca cb, decChunk (asciiBytes "zz@:") true = .ok ca ∧ 0 < ca.aux ∧
      decChunk ((asciiBytes "zz@:").drop (4 - (5 - ca.aux)) ++ asciiBytes "E_Wz") true = .ok cb := by
  refine ⟨by decide, by decide, ⟨_, rfl⟩, ?_, ⟨_, rfl⟩, ⟨_, _, rfl, by decide, rfl⟩⟩
  intro c hc
  simp only [List.mem_cons, List.not_mem_nil, or_false] at hc
  rcases hc with rfl | rfl
  · exact ⟨_, rfl, by decide⟩
  · exact ⟨_, rfl, by decide⟩

theorem witness_StreamRoundTrip :
    (0x7A : Byte) ∈ (encChunk [0, 0, 0, 0] true).out ∧
    ∃ c, decChunk (encChunk [0, 0, 0, 0] true).out false = .ok c := ⟨by decide, ⟨_, rfl⟩⟩

theorem witness_BitTransformFunctions : (asciiBytes "10100101").length = 8 ∧ 0 < 8 ∧ 7 < 8 := by decide

theorem witness_BitRegisterCommands : Params.default.hasBits = true ∧ noBits.hasBits = false ∧ 0 < 8 ∧ 7 < 8 := by decide

theorem witness_BitBufferCommandsComplete :
    Params.default.hasBits = true ∧ noBits.hasBits = false ∧ (text "0100110101" 0x30).params.wf = true ∧
    TransferRangesOk (text "0100110101" 0x30) (8 * (text "0100110101" 0x30).len.toNat) ∧
    TransferRangesOk (text "0100110101" 0xFFFF) ((text "0100110101" 0xFFFF).len.toNat / 8) := by
  unfold TransferRangesOk; decide

/-- One range ends at the end of BUF; the other is one byte too long. -/
theorem witness_FilterCommands :
    (∃ k, filterOf .filt85 = some k) ∧ (∃ k, filterOf .filt85z = some k) ∧ (∃ k, filterOf .filtbin = some k) ∧
    State.reset.params.wf = true ∧
    (loaded 0 [] 0xFFFE 2 0).src.toNat + (loaded 0 [] 0xFFFE 2 0).len.toNat ≤ State.reset.params.bufBytes ∧
    State.reset.params.bufBytes < (loaded 0 [] 0xFFFE 3 0).src.toNat + (loaded 0 [] 0xFFFE 3 0).len.toNat :=
  ⟨⟨_, rfl⟩, ⟨_, rfl⟩, ⟨_, rfl⟩, by decide, by decide, by decide⟩

theorem witness_FiltersAreIdempotent :
    (∃ k, filterOf .filt85z = some k) ∧ (text "9j q\no^z" 0).params.wf = true ∧
    (text "9j q\no^z" 0).src.toNat + (text "9j q\no^z" 0).len.toNat ≤ (text "9j q\no^z" 0).params.bufBytes :=
  ⟨⟨_, rfl⟩, by decide, by decide⟩

theorem witness_WrapFunction : 0 < 1 ∧ 3 < 4 ∧ asciiBytes "ABCDEF" ≠ [] ∧ asciiBytes "" = [] := by decide

/-- The last column of the line, and no wrapping at all. -/
theorem witness_WrapCommandCompletes :
    (text "ABC" 0x20).params.wf = true ∧ ¬ WrapParamBad { text "ABC" 0x20 with wrap := 4, col := 3 } ∧
    ¬ WrapParamBad { text "ABC" 0x20 with wrap := 0, col := 3 } ∧
    TransferRangesOk (text "ABC" 0x20) (wrapText (text "ABC" 0x20).input 4 3).1.length := by
  unfold WrapParamBad TransferRangesOk; decide

theorem witness_WrappingIsChunkIndependent :
    ((0 : Nat) = 0 ∨ 7 < 0) ∧ 3 < 4 ∧ 1 < (asciiBytes "AB").length ∧ 0 < (wrapText (asciiBytes "AB") 4 3).2.2 ∧
    0 + 1 < (wrapText (asciiBytes "AB") 1 0).1.length ∧ (0x0A : Byte) ∉ asciiBytes "AB" := by decide

/-- ENC at the end of BUF, where its output is one byte too long, and where it overlaps its input by one byte. -/
theorem witness_ErrorPriority :
    IllegalWord Params.default 0x00000102 ∧ WrapParamBad { text "AB" 0x20 with wrap := 4, col := 4 } ∧
    (∃ k, filterOf .filtbin = some k) ∧
    State.reset.params.bufBytes < (loaded 0 [] 0xFFFF 2 0).src.toNat + (loaded 0 [] 0xFFFF 2 0).len.toNat ∧
    (∃ f, transferOf (text "abcd" 0xFFFC) .enc = some f ∧ ∃ c, f (text "abcd" 0xFFFC).input = .ok c ∧
      (text "abcd" 0xFFFC).params.bufBytes < (text "abcd" 0xFFFC).dst.toNat + c.out.length) ∧
    (∃ f, transferOf (text "abcd" 3) .enc = some f ∧ ∃ c, f (text "abcd" 3).input = .ok c ∧
      (text "abcd" 3).dst.toNat + c.out.length ≤ (text "abcd" 3).params.bufBytes ∧ 0 < (text "abcd" 3).len.toNat ∧
      0 < c.out.length ∧ (text "abcd" 3).src.toNat < (text "abcd" 3).dst.toNat + c.out.length ∧
      (text "abcd" 3).dst.toNat < (text "abcd" 3).src.toNat + (text "abcd" 3).len.toNat) ∧
    ∃ f, transferOf (text "9z" 3) .decz = some f ∧ ¬ (Instr.decz = .wrap ∧ WrapParamBad (text "9z" 3)) ∧
      (text "9z" 3).src.toNat + (text "9z" 3).len.toNat ≤ (text "9z" 3).params.bufBytes ∧
      f (text "9z" 3).input = .error 1 := by
  refine ⟨by unfold IllegalWord; decide, by unfold WrapParamBad; decide, ⟨_, rfl⟩, by decide,
    ⟨_, rfl, _, rfl, by decide⟩, ⟨_, rfl, _, rfl, by decide, by decide, by decide, by decide, by decide⟩,
    ⟨_, rfl, by simp, by decide, rfl⟩⟩

theorem witness_CompletionsArePrecise :
    (exec .enc (text "abcd" 4) = .next (after .enc (text "abcd" 4)) ∧ (after .enc (text "abcd" 4)).status.err = .none) ∧
    exec .enc (text "abcd" 3) = .next (after .enc (text "abcd" 3)) ∧ (after .enc (text "abcd" 3)).status.err ≠ .none := by
  refine ⟨⟨rfl, by decide⟩, rfl, by decide⟩

theorem witness_CommandsWriteOnlyTheirRow :
    (text "abcd" 4).params.wf = true ∧ exec .enc (text "abcd" 4) = .next (after .enc (text "abcd" 4)) ∧
    exec .nop (text "abcd" 4) = .next (after .nop (text "abcd" 4)) ∧
    exec .filt85 (text "abcd" 4) = .next (after .filt85 (text "abcd" 4)) := ⟨by decide, rfl, rfl, rfl⟩

theorem witness_DatapathWidthsHaveNoEffect : exec .bencb (text "abcd" 4) = .next (after .bencb (text "abcd" 4)) := rfl

/-- The two states differ in what the command does not read: DATA, and a byte of BUF outside the source range. -/
theorem witness_CommandsReadOnlyTheirOperands :
    OperandsAgree (text "abcd" 4) { text "abcd" 4 with data := 7, buf := Memory.write 9 1 (text "abcd" 4).buf } .enc ∧
    OperandsAgree State.reset { State.reset with x0 := 7, src := 5 } .tenc ∧
    exec .enc (text "abcd" 4) = .next (after .enc (text "abcd" 4)) := by
  refine ⟨⟨rfl, rfl, rfl, rfl, rfl, fun a _ h => ?_⟩, rfl, rfl⟩
  have h4 : a < 4 := h
  interval_cases a <;> decide

end Sys2Proof.Tests
end

section
/-! PROOFS. The invariant of Safety.lean, operation by operation: what keeps it untouched, the completions, the commands,
the host's accesses, and so every step (O12). -/

namespace Sys2Proof.Machine

/-! ### The invariant and State's fields -/

/-- The invariant speaks of the parameters, BUF, STATUS and the three result registers only. -/
theorem State.Inv.congr {s t : State} (h : s.Inv) (hparams : t.params = s.params) (hbuf : t.buf = s.buf)
    (hstatus : t.status = s.status) (holen : t.olen = s.olen) (haux : t.aux = s.aux)
    (herrinfo : t.errinfo = s.errinfo) : t.Inv := by
  obtain ⟨h1, h2, h3, h4, h5, h6, h7, h8, h9⟩ := h
  constructor <;> simp only [hparams, hbuf, hstatus, holen, haux, herrinfo] <;> assumption

theorem State.Inv.draw {s : State} (h : s.Inv) (n : Nat) : (s.draw n).Inv := h.congr rfl rfl rfl rfl rfl rfl

theorem State.Inv.endTurn {s : State} (h : s.Inv) : s.endTurn.Inv := h.congr rfl rfl rfl rfl rfl rfl

theorem State.Inv.hostRead {s : State} (h : s.Inv) (a : Access) (t : Target) : (s.hostRead a t).Inv :=
  h.congr rfl rfl rfl rfl rfl rfl

/-! ### Completions -/

/-- A count register never holds more than the count it was given. -/
theorem countWord_toNat_le (n : Nat) : (countWord n).toNat ≤ n := by
  simpa [countWord] using Nat.mod_le n _

/-- Where ERR is 0 the invariant asks only for good parameters, BUF and OLEN, no DONE while busy, and ERRINFO 0 while
idle. -/
theorem State.inv_of_err_none {s : State} (hparams : s.params.wf = true) (hwf : Memory.wf s.buf = true)
    (hbelow : Memory.below s.params.bufBytes s.buf = true) (holen : s.olen.toNat ≤ s.params.bufBytes)
    (herr : s.status.err = .none) (hdone : s.status.busy = true → s.status.done = false)
    (hinfo : s.status.busy = false → s.errinfo = 0) : s.Inv where
  params_wf := hparams
  buf_wf := hwf
  buf_below := hbelow
  busy_clear := fun hb => ⟨hdone hb, herr⟩
  err_counts := by simp [herr]
  errinfo_zero := fun hb _ _ => hinfo hb
  errinfo_bounds := by simp [herr]
  errinfo_zpos := by simp [herr]
  olen_le := holen

/-- A success completion needs only a good BUF and a good OLEN: STATUS and ERRINFO it sets itself. -/
theorem State.complete_inv {s : State} (hparams : s.params.wf = true) (hwf : Memory.wf s.buf = true)
    (hbelow : Memory.below s.params.bufBytes s.buf = true) (holen : s.olen.toNat ≤ s.params.bufBytes) :
    s.complete.Inv :=
  State.inv_of_err_none hparams hwf hbelow holen rfl nofun fun _ => rfl

/-- What ERRINFO may hold after an error, in a BUF of `n` bytes (R198, R202). -/
def ErrCode.infoOk (n : Nat) (info : Word) : ErrCode → Prop
  | .bounds => info = 0 ∨ info = 1
  | .zpos => info.toNat < n
  | .none | .illegal | .overlap | .param => info = 0

/-- An error completion keeps the invariant when its ERRINFO is one that R198 allows for its code. -/
theorem State.Inv.raiseErr {s : State} (h : s.Inv) {e : ErrCode} {info : Word}
    (hinfo : e.infoOk s.params.bufBytes info) : (s.raiseErr e info).Inv where
  params_wf := h.params_wf
  buf_wf := h.buf_wf
  buf_below := h.buf_below
  busy_clear := by simp
  err_counts := by simp
  errinfo_zero := by cases e <;> simp_all [ErrCode.infoOk]
  errinfo_bounds := by rintro rfl; exact hinfo
  errinfo_zpos := by rintro rfl; exact hinfo
  olen_le := Nat.zero_le _

/-- A command of the register form keeps the invariant: its result is a count of at most 8 bytes of X. -/
theorem State.Inv.registerForm {s : State} (h : s.Inv) (d x y : Word) {n a : Nat} (hn : n ≤ 8) :
    ({ s with data := d, x0 := x, x1 := y }.setResult n a).complete.Inv := by
  refine State.complete_inv h.params_wf h.buf_wf h.buf_below ?_
  calc (countWord n).toNat ≤ n := countWord_toNat_le n
    _ ≤ 2 ^ 8 := by omega
    _ ≤ s.params.bufBytes := (Params.bufBytes_bounds h.params_wf).1

/-! ### Transfers and filters -/

theorem State.Inv.delivered {s : State} (h : s.Inv) {c : Chunk}
    (hdst : s.dst.toNat + c.out.length ≤ s.params.bufBytes) : (s.delivered c).Inv :=
  State.complete_inv h.params_wf (Memory.wf_writeBytes _ _ h.buf_wf)
    (Memory.below_writeBytes _ h.buf_below hdst)
    ((countWord_toNat_le _).trans ((Nat.le_add_left _ _).trans hdst))

theorem State.Inv.filtered {s : State} (h : s.Inv) {k : List Byte}
    (hsrc : s.src.toNat + k.length ≤ s.params.bufBytes) : (s.filtered k).Inv :=
  State.complete_inv h.params_wf (Memory.wf_writeBytes _ _ h.buf_wf)
    (Memory.below_writeBytes _ h.buf_below hsrc)
    ((countWord_toNat_le _).trans ((Nat.le_add_left _ _).trans hsrc))

theorem State.Inv.deliver {s : State} (h : s.Inv) (c : Chunk) : (s.deliver c).Inv := by
  rcases s.deliver_cases c with ⟨-, e⟩ | ⟨-, -, e⟩ | ⟨hdst, -, e⟩ <;> rw [e]
  · exact h.raiseErr (.inr rfl)
  · exact h.raiseErr (e := .overlap) rfl
  · exact h.delivered hdst

/-- A transfer keeps the invariant when its transform reports failures at offsets inside its input. -/
theorem State.Inv.transcode {s : State} (h : s.Inv) {f : List Byte → Except Nat Chunk}
    (hf : ∀ l i, f l = .error i → i < l.length) : (s.transcode f).Inv := by
  rcases s.transcode_cases f with ⟨-, e⟩ | ⟨hsrc, i, hi, e⟩ | ⟨-, c, -, e⟩ <;> rw [e]
  · exact h.raiseErr (.inl rfl)
  · refine (h.draw _).raiseErr (e := .zpos) ?_
    have hlt := hf _ _ hi
    have hle := countWord_toNat_le i
    rw [State.length_input] at hlt
    show (countWord i).toNat < s.params.bufBytes
    omega
  · exact (h.draw _).deliver c

/-- A transfer whose transform cannot fail keeps the invariant. -/
theorem State.Inv.transcode_ok {s : State} (h : s.Inv) (f : List Byte → Chunk) :
    (s.transcode fun l => .ok (f l)).Inv := h.transcode fun _ _ hi => nomatch hi

theorem State.Inv.filterInPlace {s : State} (h : s.Inv) (keep : Byte → Bool) : (s.filterInPlace keep).Inv := by
  rcases s.filterInPlace_cases keep with ⟨-, e⟩ | ⟨hsrc, e⟩ <;> rw [e]
  · exact h.raiseErr (.inl rfl)
  · have hlen := List.length_filter_le keep s.input
    rw [State.length_input] at hlen
    exact (h.draw _).filtered (by simp only [State.draw_src, State.draw_params]; omega)

/-! ### The offset of a misplaced 'z' -/

/-- Bytes emitted before the rest of a decode do not change its failure. -/
theorem emitBefore_eq_error_iff {x : List Byte} {r : Except Nat Chunk} {k : Nat} :
    emitBefore x r = .error k ↔ r = .error k := by
  cases r <;> simp [emitBefore]

/-- A decode that fails names an offset among the bytes it was given. -/
theorem decBytes_error_bounds {zf : Bool} {i k : Nat} {g l : List Byte} (h : decBytes zf i g l = .error k) :
    i ≤ k ∧ k < i + l.length := by
  induction l generalizing i g with
  | nil => simp [decBytes] at h
  | cons b rest ih =>
    have later : ∀ {g'}, decBytes zf (i + 1) g' rest = .error k → i ≤ k ∧ k < i + (b :: rest).length := by
      intro g' h'
      have := ih h'
      simp only [List.length_cons]
      omega
    simp only [decBytes] at h
    split at h
    · split at h
      · exact later (emitBefore_eq_error_iff.1 h)
      · obtain rfl : i = k := by simpa using h
        simp
    · split at h
      · exact later (emitBefore_eq_error_iff.1 h)
      · exact later h

theorem decChunk_error_lt {zf : Bool} {l : List Byte} {k : Nat} (h : decChunk l zf = .error k) : k < l.length := by
  have := (decBytes_error_bounds h).2
  omega

/-! ### Commands -/

/-- Every command keeps the invariant, in every state that meets it. -/
theorem exec_keeps_inv {s : State} (h : s.Inv) (i : Instr) : ∃ t, exec i s = .next t ∧ t.Inv := by
  cases i
  case nop => exact ⟨_, rfl, State.complete_inv h.params_wf h.buf_wf h.buf_below h.olen_le⟩
  case tenc => exact ⟨_, rfl, h.registerForm s.data _ _ (by decide)⟩
  case tencz =>
    simp only [exec, execTencz]
    split
    · exact ⟨_, rfl, h.registerForm s.data _ _ (by decide)⟩
    · exact ⟨_, rfl, h.registerForm s.data _ _ (by decide)⟩
  case tdec => exact ⟨_, rfl, h.registerForm _ s.x0 s.x1 (by decide)⟩
  case benc => exact ⟨_, rfl, h.registerForm s.data _ _ (by decide)⟩
  case bdec => exact ⟨_, rfl, h.registerForm _ s.x0 s.x1 (by decide)⟩
  case enc | encz | bencb | bdecb => exact ⟨_, rfl, h.transcode_ok _⟩
  case dec | decz => exact ⟨_, rfl, h.transcode fun _ _ => decChunk_error_lt⟩
  case filt85 | filt85z | filtbin => exact ⟨_, rfl, h.filterInPlace _⟩
  case wrap =>
    simp only [exec, execWrap]
    split
    · exact ⟨_, rfl, h.raiseErr (e := .param) rfl⟩
    · exact ⟨_, rfl, h.transcode_ok _⟩

/-- The unit's execute step keeps the invariant. -/
theorem State.Inv.execute {s : State} (h : s.Inv) : ∃ t, s.execute = .next t ∧ t.Inv := by
  rcases s.execute_cases with ⟨i, -, e⟩ | ⟨_, -, e⟩ <;> rw [e]
  · exact exec_keeps_inv h i
  · exact ⟨_, rfl, h.raiseErr (e := .illegal) rfl⟩

/-! ### Resets -/

/-- A reset meets the invariant whenever the BUF it leaves is canonical and in bounds. -/
theorem State.Inv.resetWith {s : State} (h : s.Inv) {m : Memory} (hwf : Memory.wf m = true)
    (hbelow : Memory.below s.params.bufBytes m = true) : (s.resetWith m).Inv :=
  State.inv_of_err_none h.params_wf hwf hbelow (Nat.zero_le _) rfl nofun fun _ => rfl

theorem State.Inv.powerOnReset {s : State} (h : s.Inv) : s.powerOnReset.Inv := h.resetWith rfl rfl

theorem State.Inv.softReset {s : State} (h : s.Inv) : s.softReset.Inv := by
  unfold State.softReset
  split
  · exact h.resetWith rfl rfl
  · exact h.resetWith h.buf_wf h.buf_below

/-! ### Host accesses -/

theorem State.Inv.accept {s : State} (h : s.Inv) (v : Word) : (s.accept v).Inv :=
  State.inv_of_err_none h.params_wf h.buf_wf h.buf_below h.olen_le rfl (fun _ => rfl) nofun

/-- STATUS may change in DONE and OVR alone, if DONE does not rise: what the host can do to it besides accepting a
command and resetting. -/
theorem State.Inv.setStatus {s : State} (h : s.Inv) {st : Status} (hbusy : st.busy = s.status.busy)
    (herr : st.err = s.status.err) (hdone : s.status.done = false → st.done = false) :
    ({ s with status := st } : State).Inv where
  params_wf := h.params_wf
  buf_wf := h.buf_wf
  buf_below := h.buf_below
  busy_clear := fun hb => by
    obtain ⟨hd, he⟩ := h.busy_clear (hbusy ▸ hb)
    exact ⟨hdone hd, herr.trans he⟩
  err_counts := herr ▸ h.err_counts
  errinfo_zero := hbusy ▸ herr ▸ h.errinfo_zero
  errinfo_bounds := herr ▸ h.errinfo_bounds
  errinfo_zpos := herr ▸ h.errinfo_zpos
  olen_le := h.olen_le

theorem State.Inv.writeStatus {s : State} (h : s.Inv) (v : Word) : (s.writeStatus v).Inv :=
  h.setStatus rfl rfl fun hd => by simp [hd]

theorem State.Inv.dropWrite {s : State} (h : s.Inv) : s.dropWrite.Inv := h.setStatus rfl rfl id

theorem State.Inv.writeCtrl {s : State} (h : s.Inv) (v : Word) : (s.writeCtrl v).Inv := by
  unfold State.writeCtrl
  split
  · exact h.softReset
  · exact h.congr rfl rfl rfl rfl rfl rfl

theorem State.Inv.writeReg {s : State} (h : s.Inv) (v : Word) (r : RegName) : (s.writeReg v r).Inv := by
  rcases s.writeReg_cases v r with e | ⟨-, e⟩ | e | ⟨-, e⟩ | ⟨-, -, e⟩ | ⟨-, _, _, _, _, _, _, _, _, e⟩ <;> rw [e]
  · exact h
  · exact h.writeCtrl v
  · exact h.writeStatus v
  · exact h.dropWrite
  · exact h.accept v
  · exact h.congr rfl rfl rfl rfl rfl rfl

theorem State.Inv.writeByte {s : State} (h : s.Inv) {a : Nat} (ha : a < s.params.bufBytes) (b : Byte) :
    ({ s with buf := Memory.write a b s.buf } : State).Inv where
  params_wf := h.params_wf
  buf_wf := Memory.wf_write a b h.buf_wf
  buf_below := Memory.below_write b h.buf_below ha
  busy_clear := h.busy_clear
  err_counts := h.err_counts
  errinfo_zero := h.errinfo_zero
  errinfo_bounds := h.errinfo_bounds
  errinfo_zpos := h.errinfo_zpos
  olen_le := h.olen_le

/-- Every host access keeps the invariant. -/
theorem State.Inv.bus {s : State} (h : s.Inv) (a : Access) : (s.bus a).Inv := by
  rcases s.bus_cases a with ⟨t, e⟩ | e | ⟨v, r, -, e⟩ | ⟨-, x, b, hx, e⟩ | ⟨-, e⟩ <;> rw [e]
  · exact h.hostRead a t
  · exact h
  · exact h.writeReg v r
  · exact h.writeByte hx b
  · exact h.dropWrite

/-- The host's move keeps the invariant. -/
theorem State.Inv.hostMove {s : State} (h : s.Inv) : s.hostMove.Inv := by
  have withScript : ∀ l, ({ s with script := l } : State).Inv := fun _ => h.congr rfl rfl rfl rfl rfl rfl
  rcases s.hostMove_cases with ⟨-, e⟩ | ⟨a, rest, -, e⟩ | ⟨rest, l, -, -, e⟩ <;> rw [e]
  · exact h
  · exact (withScript rest).bus a
  · exact (withScript l).bus readStatus

/-! ### Steps -/

/-- Every step answers a state that meets the invariant again. -/
theorem State.Inv.step {s : State} (h : s.Inv) : ∃ t, step s = .next t ∧ t.Inv := by
  rcases step_cases s with ⟨-, e⟩ | ⟨-, -, e⟩ | ⟨-, -, e⟩ | ⟨-, e⟩ <;> rw [e]
  · exact ⟨_, rfl, h.endTurn.hostMove⟩
  · exact h.endTurn.execute
  · exact ⟨_, rfl, h.endTurn⟩
  · exact ⟨_, rfl, h.endTurn.powerOnReset⟩

/-- Settles O12: the invariant is kept by the host's move, the unit's execute step and power-on reset. -/
theorem stepKeepsInvariant : Obligations.StepKeepsInvariant := by
  intro s t hinv hstep
  obtain ⟨u, hu, hu_inv⟩ := hinv.step
  obtain rfl : u = t := by simpa [hu] using hstep
  exact hu_inv

end Sys2Proof.Machine
end

section
/-! PROOFS. Big-endian words and their bytes as arithmetic (spec 00_scope.md R13; O31). -/

namespace Sys2Proof.Machine

/-- A word's eight bits from bit `k` on, as a quotient. -/
theorem extractLsb'_eq_ofNat_div (v : Word) (k : Nat) : v.extractLsb' k 8 = BitVec.ofNat 8 (v.toNat / 2 ^ k) := by
  rw [← Nat.shiftRight_eq_div_pow]
  rfl

/-- Appending a byte multiplies by 256 and adds it. -/
theorem toNat_append_byte {w : Nat} (x : BitVec w) (b : Byte) : (x ++ b).toNat = x.toNat * 256 + b.toNat := by
  rw [BitVec.toNat_append, ← Nat.shiftLeft_add_eq_or_of_lt b.isLt, Nat.shiftLeft_eq]

theorem be32_toNat (a b c d : Byte) :
    (be32 a b c d).toNat = a.toNat * 2 ^ 24 + b.toNat * 2 ^ 16 + c.toNat * 2 ^ 8 + d.toNat := by
  unfold be32
  simp only [toNat_append_byte]
  omega

theorem bytesBe32_eq (v : Word) :
    bytesBe32 v = [BitVec.ofNat 8 (v.toNat / 2 ^ 24), BitVec.ofNat 8 (v.toNat / 2 ^ 16),
      BitVec.ofNat 8 (v.toNat / 2 ^ 8), BitVec.ofNat 8 v.toNat] := by
  simp only [bytesBe32, extractLsb'_eq_ofNat_div, Nat.pow_zero, Nat.div_one]

theorem bytesBe32_be32 (a b c d : Byte) : bytesBe32 (be32 a b c d) = [a, b, c, d] := by
  have hb := b.isLt
  have hc := c.isLt
  have hd := d.isLt
  rw [bytesBe32_eq, be32_toNat]
  simp only [List.cons.injEq, and_true]
  refine ⟨?_, ?_, ?_, ?_⟩ <;> apply BitVec.eq_of_toNat_eq <;> rw [BitVec.toNat_ofNat] <;> omega

/-- Settles O31: `be32` as a sum, its bytes as quotients, and the one undoing the other. -/
theorem bigEndianTuples : Obligations.BigEndianTuples :=
  ⟨fun a b c d => ⟨be32_toNat a b c d, bytesBe32_be32 a b c d⟩, bytesBe32_eq⟩

end Sys2Proof.Machine
end

section
/-! PROOFS. Commands under other parameters: of the parameters a command's meaning reads BUF_BYTES alone, so it commutes
with any change that keeps BUF_BYTES (spec 00_scope.md R6, R7; 42_bit_ascii.md R147; 43_filter.md R166; O59). -/

namespace Sys2Proof.Machine

/-- The same state of a block with the parameters `p`. -/
def State.withParams (s : State) (p : Params) : State := { s with params := p }

@[simp] theorem State.withParams_src (s : State) (p : Params) : (s.withParams p).src = s.src := rfl
@[simp] theorem State.withParams_dst (s : State) (p : Params) : (s.withParams p).dst = s.dst := rfl
@[simp] theorem State.withParams_len (s : State) (p : Params) : (s.withParams p).len = s.len := rfl
@[simp] theorem State.withParams_input (s : State) (p : Params) : (s.withParams p).input = s.input := rfl

section
variable {s : State} {p : Params} (hp : p.bufBytes = s.params.bufBytes)
include hp

theorem State.withParams_validRange (a n : Nat) : (s.withParams p).validRange a n = s.validRange a n := by
  simp only [State.validRange, State.withParams, hp]

theorem State.withParams_deliver (c : Chunk) : (s.withParams p).deliver c = (s.deliver c).withParams p := by
  simp only [State.deliver, State.withParams_validRange hp, State.withParams_src, State.withParams_dst,
    State.withParams_len, apply_ite (State.withParams · p)]
  rfl

theorem State.withParams_transcode (f : List Byte → Except Nat Chunk) :
    (s.withParams p).transcode f = (s.transcode f).withParams p := by
  simp only [State.transcode, State.withParams_validRange hp, State.withParams_src, State.withParams_len,
    State.withParams_input]
  split
  · rfl
  · split
    · rfl
    · exact State.withParams_deliver (s := s.draw s.len.toNat) hp _

theorem State.withParams_filterInPlace (keep : Byte → Bool) :
    (s.withParams p).filterInPlace keep = (s.filterInPlace keep).withParams p := by
  simp only [State.filterInPlace, State.withParams_validRange hp, State.withParams_src, State.withParams_len,
    State.withParams_input]
  split <;> rfl

/-- Every command does under the parameters `p` what it does under the state's own. -/
theorem exec_withParams (i : Instr) {t : State} (h : exec i s = .next t) :
    exec i (s.withParams p) = .next (t.withParams p) := by
  cases i
  case nop | tenc | tdec | benc | bdec => cases h; rfl
  case tencz =>
    simp only [exec, execTencz] at h ⊢
    split at h
    next hz => cases h; exact if_pos hz
    next hz => cases h; exact if_neg hz
  case enc | encz | dec | decz | bencb | bdecb =>
    cases h; exact congrArg _ (State.withParams_transcode hp _)
  case filt85 | filt85z | filtbin => cases h; exact congrArg _ (State.withParams_filterInPlace hp _)
  case wrap =>
    simp only [exec, execWrap] at h ⊢
    split at h
    next hbad => cases h; exact if_pos hbad
    next hok => cases h; exact (if_neg hok).trans (congrArg _ (State.withParams_transcode hp _))

end

/-- Settles O59: LANES and FILT_BLOCK do not enter BUF_BYTES. -/
theorem datapathWidthsHaveNoEffect : Obligations.DatapathWidthsHaveNoEffect := by
  intro i s t lanes block h
  exact exec_withParams (p := { s.params with lanesLog2 := lanes, filtBlock := block }) rfl i h

end Sys2Proof.Machine
end

section
/-! PROOFS. How a command ends: every command completes and leaves the control state alone (spec 10_state.md R41;
60_exceptions.md R195 to R197), and the frame of each row of R41 (O58). -/

namespace Sys2Proof.Machine

/-! ### Completions -/

/-- A command has ended: BUSY is 0, DONE is 1, and what no command writes is as before. -/
structure Completed (s t : State) : Prop where
  control : SameControl s t
  busy : t.status.busy = false
  done : t.status.done = true

theorem FailedWith.completed {s t : State} {e : ErrCode} {info : Word} (h : FailedWith s t e info) : Completed s t :=
  ⟨h.control, h.ended.busy, h.ended.done⟩

/-- The success completion ends a command that has written data registers, counts and BUF at most. -/
theorem State.complete_completed (s : State) (data x0 x1 col olen aux : Word) (buf : Memory) (draws : Nat) :
    Completed s
      ({ s with
          data := data, x0 := x0, x1 := x1, col := col, olen := olen, aux := aux, buf := buf, draws := draws } :
        State).complete :=
  ⟨⟨rfl, rfl, rfl, rfl, rfl, rfl, rfl, rfl, rfl, rfl, rfl⟩, rfl, rfl⟩

/-- A transfer fails with its registers and BUF untouched, or delivers a chunk that fits in BUF. -/
theorem State.transcode_ends (s : State) (f : List Byte → Except Nat Chunk) :
    (∃ e info, FailedWith s (s.transcode f) e info) ∨
    ∃ c, f s.input = .ok c ∧ s.dst.toNat + c.out.length ≤ s.params.bufBytes ∧
      s.transcode f = (s.draw s.len.toNat).delivered c := by
  rcases s.transcode_cases f with ⟨-, e⟩ | ⟨-, i, -, e⟩ | ⟨-, c, hc, e⟩ <;> rw [e]
  · exact .inl ⟨_, _, (s.raiseErr_failed 0 _ _).1⟩
  · exact .inl ⟨_, _, (s.raiseErr_failed _ _ _).2⟩
  · rcases (s.draw s.len.toNat).deliver_cases c with ⟨-, e⟩ | ⟨-, -, e⟩ | ⟨hdst, -, e⟩ <;> rw [e]
    · exact .inl ⟨_, _, (s.raiseErr_failed _ _ _).2⟩
    · exact .inl ⟨_, _, (s.raiseErr_failed _ _ _).2⟩
    · exact .inr ⟨c, hc, hdst, rfl⟩

theorem State.transcode_completed (s : State) (f : List Byte → Except Nat Chunk) : Completed s (s.transcode f) := by
  rcases s.transcode_ends f with ⟨_, _, h⟩ | ⟨c, -, -, e⟩
  · exact h.completed
  · rw [e]; exact s.complete_completed _ _ _ _ _ _ _ _

theorem State.filterInPlace_completed (s : State) (keep : Byte → Bool) : Completed s (s.filterInPlace keep) := by
  rcases s.filterInPlace_cases keep with ⟨-, e⟩ | ⟨-, e⟩ <;> rw [e]
  · exact (s.raiseErr_failed 0 _ _).1.completed
  · exact s.complete_completed _ _ _ _ _ _ _ _

/-- Every command ends in a completion (R195). -/
theorem exec_completed {i : Instr} {s t : State} (h : exec i s = .next t) : Completed s t := by
  rcases exec_cases i s with ⟨d, x, y, n, -, e⟩ | e | ⟨f, e⟩ | ⟨keep, e⟩ | e <;> cases e.symm.trans h
  · exact s.complete_completed _ _ _ _ _ _ _ _
  · exact s.complete_completed _ _ _ _ _ _ _ _
  · exact s.transcode_completed f
  · exact s.filterInPlace_completed keep
  · exact (s.raiseErr_failed 0 _ _).1.completed

/-- The unit's execute step ends in a completion, for an illegal word too. -/
theorem State.execute_completed {s t : State} (h : s.execute = .next t) : Completed s t := by
  rcases s.execute_cases with ⟨i, -, e⟩ | ⟨_, -, e⟩
  · exact exec_completed (e.symm.trans h)
  · cases e.symm.trans h
    exact (s.raiseErr_failed 0 _ _).1.completed

/-! ### The frames of transfers and filters -/

theorem SameBuf.outside {s t : State} (h : SameBuf s t) (a n : Nat) : SameBufOutside s t a n := fun x _ => h x

/-- What a transfer leaves alone, however it ends: DATA, X, and BUF outside the OLEN bytes at DST. -/
structure TransferFrame (s t : State) : Prop where
  data : t.data = s.data
  x0 : t.x0 = s.x0
  x1 : t.x1 = s.x1
  buf : SameBufOutside s t s.dst.toNat t.olen.toNat

theorem FailedWith.transferFrame {s t : State} {e : ErrCode} {info : Word} (h : FailedWith s t e info) :
    TransferFrame s t :=
  ⟨h.data.data, h.data.x0, h.data.x1, h.buf.outside _ _⟩

theorem State.transcode_frame (s : State) (hw : s.params.wf = true) (f : List Byte → Except Nat Chunk) :
    TransferFrame s (s.transcode f) := by
  rcases s.transcode_ends f with ⟨_, _, h⟩ | ⟨c, -, hdst, e⟩
  · exact h.transferFrame
  · rw [e]
    have hbuf := (Params.bufBytes_bounds hw).2
    have holen : (((s.draw s.len.toNat).delivered c).olen).toNat = c.out.length := countWord_toNat (by omega)
    refine ⟨rfl, rfl, rfl, fun x hx => ?_⟩
    rw [holen] at hx
    exact (Memory.read?_writeBytes c.out s.buf s.dst.toNat x).trans (if_neg (by omega))

/-- A transfer whose transform gives no column leaves COL alone. -/
theorem State.transcode_col {s : State} {f : List Byte → Except Nat Chunk}
    (hf : ∀ l c, f l = .ok c → c.col = none) : (s.transcode f).col = s.col := by
  rcases s.transcode_ends f with ⟨_, _, h⟩ | ⟨c, hc, -, e⟩
  · exact h.data.col
  · rw [e]
    show (c.col.map countWord).getD s.col = s.col
    rw [hf _ _ hc]
    rfl

theorem State.filterInPlace_sameData (s : State) (keep : Byte → Bool) : SameData s (s.filterInPlace keep) := by
  rcases s.filterInPlace_cases keep with ⟨-, e⟩ | ⟨-, e⟩ <;> rw [e] <;> exact ⟨rfl, rfl, rfl, rfl⟩

/-- A filter writes the OLEN bytes at SRC at most, however it ends. -/
theorem State.filterInPlace_sameBufOutside (s : State) (hw : s.params.wf = true) (keep : Byte → Bool) :
    SameBufOutside s (s.filterInPlace keep) s.src.toNat (s.filterInPlace keep).olen.toNat := by
  rcases s.filterInPlace_cases keep with ⟨-, e⟩ | ⟨hsrc, e⟩ <;> rw [e]
  · exact (s.raiseErr_failed 0 _ _).1.buf.outside _ _
  · have hlen := List.length_filter_le keep s.input
    rw [State.length_input] at hlen
    obtain ⟨hdone, hwrote, -⟩ := s.filtered_done (s.input.filter keep) s.len.toNat hw hlen hsrc
    exact hdone.olen ▸ hwrote.others

/-- Decoding gives no column. -/
theorem decBytes_col {zf : Bool} {i : Nat} {g l : List Byte} {c : Chunk} (h : decBytes zf i g l = .ok c) :
    c.col = none := by
  have emitted : ∀ {x r} {c : Chunk}, emitBefore x r = .ok c → (∀ c', r = .ok c' → c'.col = none) → c.col = none := by
    intro x r c hx hr
    cases r with
    | error k => cases hx
    | ok c' => cases hx; exact hr c' rfl
  induction l generalizing i g c with
  | nil =>
    cases h
    unfold decTail
    split <;> rfl
  | cons b rest ih =>
    simp only [decBytes] at h
    split at h
    · split at h
      · exact emitted h fun _ => ih
      · cases h
    · split at h
      · exact emitted h fun _ => ih
      · exact ih h

/-! ### The frame of every command -/

/-- Only WRAP writes COL. -/
theorem exec_col {i : Instr} {s t : State} (hi : i ≠ .wrap) (h : exec i s = .next t) : t.col = s.col := by
  cases i
  case nop | tenc | tdec | benc | bdec => cases h; rfl
  case tencz =>
    simp only [exec, execTencz] at h
    split at h <;> cases h <;> rfl
  case enc | encz | bencb | bdecb =>
    cases h
    exact State.transcode_col fun _ _ hc => by cases hc; rfl
  case dec | decz =>
    cases h
    exact State.transcode_col fun _ _ => decBytes_col
  case filt85 | filt85z | filtbin => cases h; exact (s.filterInPlace_sameData _).col
  case wrap => exact absurd rfl hi

/-- Settles O58: the register forms by their fields, the transfers and the filters by their frames. -/
theorem commandsWriteOnlyTheirRow : Obligations.CommandsWriteOnlyTheirRow := by
  intro i s t hw h
  have transfer := s.transcode_frame hw
  have filter := s.filterInPlace_sameData
  have filterBuf := s.filterInPlace_sameBufOutside hw
  have hcol : i ≠ .wrap → t.col = s.col := fun hi => exec_col hi h
  refine ⟨(exec_completed h).control, ?_⟩
  cases i
  case nop | tenc | tdec | benc | bdec => cases h; simp [SameBuf]
  case tencz =>
    simp only [exec, execTencz] at h
    split at h <;> cases h <;> simp [SameBuf]
  case enc | encz | dec | decz | bencb | bdecb =>
    cases h
    simpa [(transfer _).data, (transfer _).x0, (transfer _).x1, (transfer _).buf] using hcol
  case filt85 | filt85z | filtbin =>
    cases h
    simp [(filter _).data, (filter _).x0, (filter _).x1, (filter _).col, filterBuf]
  case wrap =>
    simp only [exec, execWrap] at h
    split at h <;> cases h
    · simp [SameBufOutside]
    · simp [(transfer _).data, (transfer _).x0, (transfer _).x1, (transfer _).buf]

end Sys2Proof.Machine
end

section
/-! PROOFS. The host's accesses to the registers (spec 10_state.md R22 to R36; 60_exceptions.md R198, R207, R210): a read
returns the register's value, a write is `writeReg`; CAP, STATUS and CTRL as read, and the interrupt line (O13, O17, O19
to O22, O24, O25, O29). -/

namespace Sys2Proof.Machine

/-! ### Register accesses -/

/-- The register map, read as one fact: a register's offset reaches that register (R22). -/
theorem busTarget_offset (p : Params) (r : RegName) : busTarget p .bits32 (BitVec.ofNat 25 r.offset) = .reg r := by
  cases r <;> rfl

theorem State.bus_readReg (s : State) (r : RegName) (h : (s.status.busy && r.hiddenWhileBusy) = false) :
    s.bus (.r32 (BitVec.ofNat 25 r.offset)) = s.answered (.r32 (BitVec.ofNat 25 r.offset)) (s.regValue r) := by
  rw [← s.hostRead_reg _ h, ← busTarget_offset s.params r]
  rfl

/-- A register that R77 does not hide is read alike, busy or not. -/
theorem State.bus_readVisibleReg (s : State) (r : RegName) (h : r.hiddenWhileBusy = false) :
    s.bus (.r32 (BitVec.ofNat 25 r.offset)) = s.answered (.r32 (BitVec.ofNat 25 r.offset)) (s.regValue r) :=
  s.bus_readReg r (by simp [h])

theorem State.bus_writeReg (s : State) (r : RegName) (v : Word) :
    s.bus (.w32 (BitVec.ofNat 25 r.offset) v) = s.writeReg v r :=
  congrArg (s.writeTarget v) (busTarget_offset s.params r)

theorem State.writeWhenIdle_of_idle {s : State} (h : s.status.busy = false) (t : State) : s.writeWhenIdle t = t := by
  simp [State.writeWhenIdle, h]

theorem State.writeCtrl_of_srst (s : State) {v : Word} (h : v.getLsbD 1 = true) : s.writeCtrl v = s.softReset :=
  if_pos h

theorem State.writeCtrl_of_not_srst (s : State) {v : Word} (h : v.getLsbD 1 = false) :
    s.writeCtrl v = { s with ctrl := { ie := v.getLsbD 0 } } :=
  if_neg (Bool.eq_false_iff.1 h)

/-! ### Values as read -/

/-- Appending `w` bits multiplies by `2 ^ w` and adds them. -/
theorem toNat_append_eq_add {m w : Nat} (x : BitVec m) (y : BitVec w) :
    (x ++ y).toNat = x.toNat * 2 ^ w + y.toNat := by
  rw [BitVec.toNat_append, ← Nat.shiftLeft_add_eq_or_of_lt y.isLt, Nat.shiftLeft_eq]

theorem Ctrl.word_eq (c : Ctrl) : c.word = if c.ie then 1 else 0 := by
  obtain ⟨ie⟩ := c
  cases ie <;> decide

/-- STATUS as read, as a number (R27). -/
theorem Status.word_toNat (t : Status) :
    t.word.toNat = t.busy.toNat + 2 * t.done.toNat + 4 * t.ovr.toNat + 256 * t.err.code.toNat := by
  simp only [Status.word, toNat_append_eq_add, BitVec.toNat_ofBool, BitVec.toNat_ofNat]
  omega

/-- CAP as a number (R25): BUF_LOG2 fits its field when the parameters are ones the spec allows. -/
theorem capWord_toNat {p : Params} (h : p.wf = true) :
    (capWord p).toNat = p.hasBits.toNat + 16 * p.lanesLog2.val + 256 * p.bufLog2 := by
  simp only [Params.wf, decide_eq_true_eq] at h
  have hlanes := p.lanesLog2.isLt
  simp only [capWord, toNat_append_eq_add, BitVec.toNat_ofBool, BitVec.toNat_ofNat]
  omega

/-! ### Resets and the interrupt line -/

theorem State.resetWith_registersAtReset (s : State) (m : Memory) : RegistersAtReset (s.resetWith m) where
  id := rfl
  cap := rfl
  zero r hid hcap := by
    cases r
    case ID => exact absurd rfl hid
    case CAP => exact absurd rfl hcap
    case CTRL => exact (by decide : State.reset.ctrl.word = 0)
    case STATUS => exact (by decide : State.reset.status.word = 0)
    all_goals rfl
  inFlight := rfl
  irq := rfl

theorem State.softReset_registersAtReset (s : State) : RegistersAtReset s.softReset := s.resetWith_registersAtReset _

theorem State.irq_of_done_false {s : State} (h : s.status.done = false) : s.irq = false := by simp [State.irq, h]

theorem State.irq_of_ie_false {s : State} (h : s.ctrl.ie = false) : s.irq = false := by simp [State.irq, h]

/-- A completion raises IRQ exactly when IE is set. -/
theorem Completed.irq {s t : State} (h : Completed s t) : t.irq = s.ctrl.ie := by
  simp [State.irq, h.control.ctrl, h.done]

/-- Writing IE = 0 clears IE, whether the write resets the block or not. -/
theorem State.writeCtrl_ie_of_bit0 (s : State) {v : Word} (h : v.getLsbD 0 = false) : (s.writeCtrl v).ctrl.ie = false := by
  unfold State.writeCtrl
  split
  · rfl
  · exact h

/-! ### The obligations -/

/-- Settles O13: after reset ERR is 0, BUF is empty, and OLEN and ERRINFO are 0. -/
theorem resetMeetsInvariant : Obligations.ResetMeetsInvariant :=
  State.inv_of_err_none (by decide) rfl rfl (by decide) rfl nofun fun _ => rfl

/-- Settles O17: while idle no register is hidden. -/
theorem registerReadsWhileIdle : Obligations.RegisterReadsWhileIdle := by
  intro s hidle
  have read : ∀ r : RegName, s.bus (.r32 (BitVec.ofNat 25 r.offset)) =
      s.answered (.r32 (BitVec.ofNat 25 r.offset)) (s.regValue r) := fun r => s.bus_readReg r (by simp [hidle])
  exact ⟨read .ID, s.ctrl.word_eq ▸ read .CTRL, read .CMD, read .SRC, read .DST, read .LEN, read .DATA, read .X0,
    read .X1, read .WRAP, read .COL, read .OLEN, read .AUX, read .ERRINFO⟩

/-- Settles O19: the fields of CAP are read off its value as a number. -/
theorem capReportsTheParameters : Obligations.CapReportsTheParameters := by
  intro s hw
  have hcap := capWord_toNat hw
  have hbits := s.params.hasBits.toNat_lt
  have hlanes := s.params.lanesLog2.isLt
  have hlog2 : s.params.bufLog2 ≤ 24 := by
    simp only [Params.wf, decide_eq_true_eq] at hw
    exact hw.2.1
  refine ⟨capWord s.params, s.bus_readVisibleReg .CAP rfl, by omega, by omega,
    congrArg (2 ^ ·) ?_, by omega, congrArg (2 ^ ·) ?_, by omega⟩ <;> omega

/-- Settles O20: STATUS is never hidden, and its value as a number is the sum of its fields. -/
theorem statusReadsItsFields : Obligations.StatusReadsItsFields :=
  ⟨⟨rfl, rfl, rfl, rfl, rfl, rfl⟩, fun s =>
    ⟨s.status.word, s.bus_readVisibleReg .STATUS rfl, s.status.word_toNat⟩⟩

/-- Settles O21: while idle a write to an operand register is stored, and `writeReg` has no effect on a read-only one. -/
theorem registerWrites : Obligations.RegisterWrites := by
  intro s v
  have write := fun r : RegName => s.bus_writeReg r v
  refine ⟨fun hidle => ?_, write .ID, write .CAP, write .OLEN, write .AUX, write .ERRINFO⟩
  have stored := fun (r : RegName) (t : State) (ht : s.writeReg v r = s.writeWhenIdle t) =>
    ((write r).trans ht).trans (State.writeWhenIdle_of_idle hidle t)
  exact ⟨stored .SRC _ rfl, stored .DST _ rfl, stored .LEN _ rfl, stored .DATA _ rfl, stored .X0 _ rfl,
    stored .X1 _ rfl, stored .WRAP _ rfl, stored .COL _ rfl⟩

/-- Settles O22: a CMD write while idle is `accept`. -/
theorem commandWriteIsAccepted : Obligations.CommandWriteIsAccepted := fun s v hidle =>
  (s.bus_writeReg .CMD v).trans (State.writeWhenIdle_of_idle hidle _)

/-- Settles O24: a STATUS write is `writeStatus`, busy or not. -/
theorem statusWriteClearsOnes : Obligations.StatusWriteClearsOnes := fun s v => s.bus_writeReg .STATUS v

/-- Settles O25: a CTRL write is `writeCtrl`, by its bit 1; CTRL is never hidden from a read. -/
theorem controlRegister : Obligations.ControlRegister := by
  intro s v
  have write : s.bus (.w32 0x08 v) = s.writeCtrl v := s.bus_writeReg .CTRL v
  refine ⟨fun hsrst => ?_, fun hsrst => ?_, ?_⟩
  · rw [write, s.writeCtrl_of_not_srst hsrst]
  · rw [write, s.writeCtrl_of_srst hsrst]
    exact ⟨s.softReset_registersAtReset, rfl⟩
  · exact s.ctrl.word_eq ▸ s.bus_readVisibleReg .CTRL rfl

/-- Settles O29: a completion sets DONE; each clearing takes DONE or IE away. -/
theorem interruptLine : Obligations.InterruptLine := by
  intro s
  have writeCtrl : ∀ v, s.bus (.w32 0x08 v) = s.writeCtrl v := s.bus_writeReg .CTRL
  refine ⟨rfl, fun i t h => (exec_completed h).irq, fun v hv => ?_, fun v hidle => ?_, fun v hv => ?_, fun v hv => ?_,
    rfl⟩
  · rw [statusWriteClearsOnes s v]
    exact State.irq_of_done_false (by simp [hv])
  · rw [commandWriteIsAccepted s v hidle]
    exact State.irq_of_done_false rfl
  · rw [writeCtrl]
    exact State.irq_of_ie_false (s.writeCtrl_ie_of_bit0 hv)
  · rw [writeCtrl, s.writeCtrl_of_srst hv]
    exact s.softReset_registersAtReset.irq

end Sys2Proof.Machine
end

section
/-! PROOFS. What a step does to STATUS and to the parameters: the host's accesses, the unit's completion and the resets
(spec 10_state.md R25, R27, R28; O11, O14). -/

namespace Sys2Proof.Machine

/-! ### The parameters -/

theorem State.writeCtrl_params (s : State) (v : Word) : (s.writeCtrl v).params = s.params := by
  unfold State.writeCtrl
  split <;> rfl

theorem State.writeReg_params (s : State) (v : Word) (r : RegName) : (s.writeReg v r).params = s.params := by
  rcases s.writeReg_cases v r with e | ⟨-, e⟩ | e | ⟨-, e⟩ | ⟨-, -, e⟩ | ⟨-, _, _, _, _, _, _, _, _, e⟩ <;> rw [e]
  · exact s.writeCtrl_params v
  all_goals rfl

theorem State.bus_params (s : State) (a : Access) : (s.bus a).params = s.params := by
  rcases s.bus_cases a with ⟨t, e⟩ | e | ⟨v, r, -, e⟩ | ⟨-, _, _, -, e⟩ | ⟨-, e⟩ <;> rw [e]
  · rfl
  · exact s.writeReg_params v r
  · rfl

theorem State.hostMove_params (s : State) : s.hostMove.params = s.params := by
  rcases s.hostMove_cases with ⟨-, e⟩ | ⟨a, _, -, e⟩ | ⟨_, _, -, -, e⟩ <;> rw [e] <;> exact State.bus_params _ _

/-- Settles O14: no agent's move changes the parameters, and neither reset does. -/
theorem parametersNeverChange : Obligations.ParametersNeverChange := by
  intro s t h
  rcases step_cases s with ⟨-, e⟩ | ⟨-, -, e⟩ | ⟨-, -, e⟩ | ⟨-, e⟩
  · cases e.symm.trans h
    exact s.endTurn.hostMove_params
  · exact (State.execute_completed (e.symm.trans h)).control.params
  · cases e.symm.trans h
    rfl
  · cases e.symm.trans h
    rfl

/-! ### BUSY and DONE -/

/-- BUSY and DONE stand as they did, or have fallen. -/
structure Status.NoRise (t u : Status) : Prop where
  busy : t.busy = false → u.busy = false
  done : t.done = false → u.done = false

theorem Status.NoRise.refl (t : Status) : t.NoRise t := ⟨id, id⟩

theorem State.writeCtrl_noRise (s : State) (v : Word) : s.status.NoRise (s.writeCtrl v).status := by
  unfold State.writeCtrl
  split
  · exact ⟨fun _ => rfl, fun _ => rfl⟩
  · exact .refl _

/-- A register write raises neither BUSY nor DONE, unless a CMD write is accepted. -/
theorem State.writeReg_status (s : State) (v : Word) (r : RegName) :
    s.status.NoRise (s.writeReg v r).status ∨ (r = .CMD ∧ s.writeReg v r = s.accept v) := by
  rcases s.writeReg_cases v r with e | ⟨-, e⟩ | e | ⟨-, e⟩ | ⟨-, hr, e⟩ | ⟨-, _, _, _, _, _, _, _, _, e⟩ <;> rw [e]
  · exact .inl (.refl _)
  · exact .inl (s.writeCtrl_noRise v)
  · exact .inl ⟨id, fun hd => by simp [hd]⟩
  · exact .inl ⟨id, id⟩
  · exact .inr ⟨hr, rfl⟩
  · exact .inl (.refl _)

/-- A host access raises neither BUSY nor DONE, unless it is a CMD write that is accepted (R28). -/
theorem State.bus_status (s : State) (a : Access) :
    s.status.NoRise (s.bus a).status ∨ ∃ v, a = .w32 0x10 v ∧ s.bus a = s.accept v := by
  rcases s.bus_cases a with ⟨t, e⟩ | e | ⟨v, r, ha, e⟩ | ⟨-, _, _, -, e⟩ | ⟨-, e⟩ <;> rw [e]
  · exact .inl (.refl _)
  · exact .inl (.refl _)
  · rcases s.writeReg_status v r with h | ⟨rfl, h⟩
    · exact .inl h
    · exact .inr ⟨v, ha, h⟩
  · exact .inl (.refl _)
  · exact .inl ⟨id, id⟩

/-- The host's move raises neither BUSY nor DONE, unless its next access is a CMD write that is accepted. -/
theorem State.hostMove_status (s : State) :
    s.status.NoRise s.hostMove.status ∨
    ∃ v rest, s.script = .access (.w32 0x10 v) :: rest ∧ s.hostMove = State.accept { s with script := rest } v := by
  rcases s.hostMove_cases with ⟨-, e⟩ | ⟨a, rest, hs, e⟩ | ⟨rest, l, -, -, e⟩ <;> rw [e]
  · exact .inl (.refl _)
  · rcases State.bus_status { s with script := rest } a with h | ⟨v, rfl, h⟩
    · exact .inl h
    · exact .inr ⟨v, rest, hs, h⟩
  · exact .inl (.refl _)

/-- A step raises neither BUSY nor DONE, unless it is the unit's completion or the host's accepted CMD write. -/
theorem step_status {s t : State} (h : step s = .next t) :
    s.status.NoRise t.status ∨
    (s.nextTurn = .unit ∧ s.status.busy = true ∧ Completed s.endTurn t) ∨
    (s.nextTurn = .host ∧ ∃ v rest, s.script = .access (.w32 0x10 v) :: rest ∧
      t = State.accept { s.endTurn with script := rest } v) := by
  rcases step_cases s with ⟨hhost, e⟩ | ⟨hunit, hbusy, e⟩ | ⟨-, -, e⟩ | ⟨-, e⟩
  · cases e.symm.trans h
    exact s.endTurn.hostMove_status.imp_right fun accepted => .inr ⟨hhost, accepted⟩
  · exact .inr (.inl ⟨hunit, hbusy, State.execute_completed (e.symm.trans h)⟩)
  · cases e.symm.trans h
    exact .inl (.refl _)
  · cases e.symm.trans h
    exact .inl ⟨fun _ => rfl, fun _ => rfl⟩

/-- Settles O11: a completion lowers BUSY, and an acceptance lowers DONE. -/
theorem doneAndBusyRiseOnlyAsSpecified : Obligations.DoneAndBusyRiseOnlyAsSpecified := by
  intro s t h
  rcases step_status h with hr | ⟨hunit, hbusy, hc⟩ | ⟨hhost, v, rest, hs, rfl⟩
  · exact ⟨fun h0 h1 => by simp [hr.done h0] at h1, fun h0 h1 => by simp [hr.busy h0] at h1⟩
  · exact ⟨fun _ _ => ⟨hunit, hbusy, hc.busy⟩, fun hidle => by simp [hbusy] at hidle⟩
  · exact ⟨fun _ hd => by simp at hd, fun _ _ => ⟨hhost, v, rest, hs, rfl, rfl, rfl, rfl⟩⟩

end Sys2Proof.Machine
end

section
/-! PROOFS. The bytes of X as bytes of a 64-bit number (spec 10_state.md R33; O32). -/

namespace Sys2Proof.Machine

theorem toNat_extractLsb'_byte (v : Word) (k : Nat) : (v.extractLsb' k 8).toNat = v.toNat / 2 ^ k % 256 := by
  rw [extractLsb'_eq_ofNat_div, BitVec.toNat_ofNat]

/-- Bytes 0 to 3 of X are those of X0, most significant first. -/
theorem State.xByte_toNat_low (s : State) {i : Nat} (h : i < 4) :
    (s.xByte i).toNat = s.x0.toNat / 2 ^ (24 - 8 * i) % 256 := by
  rw [State.xByte, if_pos h, toNat_extractLsb'_byte]

/-- Bytes 4 to 7 of X are those of X1, most significant first. -/
theorem State.xByte_toNat_high (s : State) {i : Nat} (h : 4 ≤ i) :
    (s.xByte i).toNat = s.x1.toNat / 2 ^ (24 - 8 * (i - 4)) % 256 := by
  rw [State.xByte, if_neg (by omega), toNat_extractLsb'_byte]

/-- Settles O32: X0 is the upper half of the 64-bit value, and X1 its lower half. -/
theorem vectorBytesAreBigEndian : Obligations.VectorBytesAreBigEndian := by
  intro s i hi
  have hx1 := s.x1.isLt
  rcases Nat.lt_or_ge i 4 with h | h
  · rw [s.xByte_toNat_low h]
    interval_cases i <;> omega
  · rw [s.xByte_toNat_high h]
    interval_cases i <;> omega

end Sys2Proof.Machine
end

section
/-! PROOFS. The host's accesses to BUF and to what lies outside the map (spec 20_memory.md R60, R61, R68, R69, R73, R76,
R77, R226): a byte written and read back, what busy hides or drops, and the accesses that reach nothing (O18, O23, O26 to
O28). -/

namespace Sys2Proof.Machine

/-! ### Accesses that reach nothing -/

/-- A write of a reserved offset, or a malformed write, has no effect (R68, R69, R73). -/
theorem State.writeTarget_ignored (s : State) (v : Word) {t : Target} (h : t = .reserved ∨ t = .malformed) :
    s.writeTarget v t = s := by
  rcases h with rfl | rfl <;> rfl

/-- No register lies at 0x40 or above (R22). -/
theorem RegName.offset_lt (r : RegName) : r.offset < 0x40 := by
  cases r <;> decide

theorem RegName.ofOffset_eq_none {n : Nat} (h : 0x40 ≤ n) : RegName.ofOffset n = none := by
  rcases hr : RegName.ofOffset n with _ | r
  · rfl
  · have hn := RegName.offset_of_ofOffset hr
    have hlt := r.offset_lt
    omega

/-- An access past the registers and outside BUF reaches nothing: the rest of the register window is reserved where an
access is well formed (R68, R73), and everything beyond it is reserved at every width. -/
theorem busTarget_outsideMap (p : Params) (w : Width) {o : Offset} (hlo : 0x40 ≤ o.toNat)
    (hout : o.toNat < 0x1000000 ∨ 0x1000000 + p.bufBytes ≤ o.toNat) :
    busTarget p w o = .reserved ∨ busTarget p w o = .malformed := by
  by_cases hreg : o.toNat < 0x100
  · by_cases hw : w = .bits32
    · by_cases h4 : o.toNat % 4 = 0
      · exact .inl (by simp [busTarget, hreg, hw, h4, RegName.ofOffset_eq_none hlo])
      · exact .inr (busTarget_unaligned p hreg h4)
    · exact .inr (busTarget_narrow p hw hreg)
  · left
    unfold busTarget bufWindow
    dsimp only
    rw [if_neg hreg]
    rcases hout with h | h
    · exact if_pos h
    · rw [if_neg (by omega), if_neg (by omega)]

/-! ### Bytes of BUF -/

theorem State.bus_writeByte (s : State) {a : Nat} (h : a < s.params.bufBytes) (h24 : a < 2 ^ 24) (b : Byte) :
    s.bus (.w8 (BitVec.ofNat 25 (0x1000000 + a)) b) = s.writeWhenIdle { s with buf := Memory.write a b s.buf } := by
  have low : (b.setWidth 32).setWidth 8 = b := BitVec.setWidth_setWidth_of_le b (by decide)
  calc s.bus (.w8 (BitVec.ofNat 25 (0x1000000 + a)) b)
      = s.writeTarget (b.setWidth 32) (.byte a) := congrArg (s.writeTarget _) (busTarget_bufByte s.params h h24)
    _ = s.writeWhenIdle { s with buf := Memory.write a b s.buf } := by rw [State.writeTarget, low]

theorem State.bus_readByte (s : State) {a : Nat} (h : a < s.params.bufBytes) (h24 : a < 2 ^ 24) :
    s.bus (.r8 (BitVec.ofNat 25 (0x1000000 + a))) = s.hostRead (.r8 (BitVec.ofNat 25 (0x1000000 + a))) (.byte a) :=
  congrArg (s.hostRead _) (busTarget_bufByte s.params h h24)

/-- A written byte is returned while idle, and no free value is taken. -/
theorem State.hostRead_writtenByte {s : State} (acc : Access) {a : Nat} {b : Byte} (hidle : s.status.busy = false)
    (hb : Memory.read? s.buf a = some b) : s.hostRead acc (.byte a) = s.answered acc (b.setWidth 32) := by
  simp [State.hostRead, State.readValue, State.readDraws, State.answered, hidle, hb]

/-- A byte read while busy, or one that nothing has written, is the next free value (R77, R226; log 4). -/
theorem State.hostRead_freeByte {s : State} (acc : Access) {a : Nat}
    (h : s.status.busy = true ∨ Memory.read? s.buf a = none) :
    s.hostRead acc (.byte a) =
      { s.answered acc ((Config.freeByte s.draws).setWidth 32) with draws := s.draws + 1 } := by
  rcases h with h | h <;> simp [State.hostRead, State.readValue, State.readDraws, State.answered, h]

/-! ### While busy -/

/-- A hidden register read while busy is the next free value (R77; log 4). -/
theorem State.hostRead_hiddenReg {s : State} (acc : Access) {r : RegName} (hbusy : s.status.busy = true)
    (h : r.hiddenWhileBusy = true) :
    s.hostRead acc (.reg r) = { s.answered acc (Config.freeWord s.draws) with draws := s.draws + 1 } := by
  simp [State.hostRead, State.readValue, State.readDraws, State.answered, hbusy, h]

theorem State.bus_readHiddenReg {s : State} {r : RegName} (hbusy : s.status.busy = true)
    (h : r.hiddenWhileBusy = true) :
    s.bus (.r32 (BitVec.ofNat 25 r.offset)) =
      { s.answered (.r32 (BitVec.ofNat 25 r.offset)) (Config.freeWord s.draws) with draws := s.draws + 1 } :=
  (congrArg (s.hostRead _) (busTarget_offset s.params r)).trans (State.hostRead_hiddenReg _ hbusy h)

theorem State.writeWhenIdle_of_busy {s : State} (h : s.status.busy = true) (t : State) :
    s.writeWhenIdle t = s.dropWrite := by
  simp [State.writeWhenIdle, h]

/-- The registers of access type RWB, which the host writes only while idle (10_state.md R23). -/
def RegName.rwb : List RegName := [.CMD, .SRC, .DST, .LEN, .DATA, .X0, .X1, .WRAP, .COL]

/-- A write to an RWB register while busy is dropped (R76). -/
theorem State.writeReg_of_busy {s : State} (hbusy : s.status.busy = true) (v : Word) {r : RegName}
    (hr : r ∈ RegName.rwb) : s.writeReg v r = s.dropWrite := by
  cases r
  case CMD | SRC | DST | LEN | DATA | X0 | X1 | WRAP | COL => exact State.writeWhenIdle_of_busy hbusy _
  case ID | CAP | CTRL | STATUS | OLEN | AUX | ERRINFO => exact absurd hr (by decide)

/-! ### The obligations -/

/-- Settles O26: such an access has no target, so a write has no effect and a read returns 0. -/
theorem malformedAccesses : Obligations.MalformedAccesses := by
  intro s o b h v
  refine ⟨fun hreg => ?_, fun hlo hhi => ?_⟩
  · have m8 := busTarget_narrow s.params (w := .bits8) (by decide) hreg
    have m16 := busTarget_narrow s.params (w := .bits16) (by decide) hreg
    refine ⟨s.writeTarget_ignored _ (.inr m8), s.writeTarget_ignored _ (.inr m16), s.hostRead_zero _ (.inr m8),
      s.hostRead_zero _ (.inr m16), fun h4 => ?_⟩
    have m32 := busTarget_unaligned s.params (w := .bits32) hreg h4
    exact ⟨s.writeTarget_ignored _ (.inr m32), s.hostRead_zero _ (.inr m32)⟩
  · have m16 := busTarget_wide s.params (w := .bits16) (by decide) hlo hhi
    have m32 := busTarget_wide s.params (w := .bits32) (by decide) hlo hhi
    exact ⟨s.writeTarget_ignored _ (.inr m16), s.writeTarget_ignored _ (.inr m32), s.hostRead_zero _ (.inr m16),
      s.hostRead_zero _ (.inr m32)⟩

/-- Settles O27: outside the map no access has a target, whatever its width. -/
theorem reservedOffsets : Obligations.ReservedOffsets := by
  intro s o b h v hlo hout
  have target := fun w => busTarget_outsideMap s.params w hlo hout
  exact ⟨s.writeTarget_ignored _ (target .bits8), s.writeTarget_ignored _ (target .bits16),
    s.writeTarget_ignored _ (target .bits32), s.hostRead_zero _ (target .bits8), s.hostRead_zero _ (target .bits16),
    s.hostRead_zero _ (target .bits32)⟩

/-- Settles O28: the access is a write or a read of the byte it names, and BUF's own read-after-write rule gives the rest. -/
theorem bufferByteAccesses : Obligations.BufferByteAccesses := by
  intro s a b hidle ha h24
  refine ⟨⟨Memory.write a b s.buf, ?_, fun x => Memory.read?_write s.buf a x b⟩, fun hb => ?_, fun hnone => ?_⟩
  · rw [s.bus_writeByte ha h24, State.writeWhenIdle_of_idle hidle]
  · rw [s.bus_readByte ha h24, State.hostRead_writtenByte _ hidle hb]
  · exact ⟨_, _, (s.bus_readByte ha h24).trans (State.hostRead_freeByte _ (.inr hnone))⟩

/-- Settles O23: an RWB register and a BUF byte drop the write; CTRL and STATUS take it as they do while idle. -/
theorem writesWhileBusyAreDropped : Obligations.WritesWhileBusyAreDropped := by
  intro s v hbusy
  refine ⟨?_, fun a b ha h24 => ?_, (controlRegister s v).1, statusWriteClearsOnes s v⟩
  · show ∀ o ∈ RegName.rwb.map fun r => BitVec.ofNat 25 r.offset, s.bus (.w32 o v) = s.dropWrite
    refine List.forall_mem_map.2 fun r hr => ?_
    rw [s.bus_writeReg, State.writeReg_of_busy hbusy v hr]
  · exact (s.bus_writeByte ha h24 b).trans (State.writeWhenIdle_of_busy hbusy _)

/-- Settles O18: a register that R77 does not hide is read as while idle; a hidden one and a BUF byte are free values. -/
theorem readsWhileBusy : Obligations.ReadsWhileBusy := by
  intro s hbusy
  have read := s.bus_readVisibleReg
  refine ⟨read .ID rfl, read .CAP rfl, s.ctrl.word_eq ▸ read .CTRL rfl, read .STATUS rfl, read .CMD rfl,
    read .SRC rfl, read .DST rfl, read .LEN rfl, read .WRAP rfl, ?_, fun a ha h24 => ?_⟩
  · show ∀ o ∈ [RegName.DATA, .X0, .X1, .COL, .OLEN, .AUX, .ERRINFO].map fun r => BitVec.ofNat 25 r.offset,
      ∃ v d, s.bus (.r32 o) = { s.answered (.r32 o) v with draws := d }
    refine List.forall_mem_map.2 fun r hr => ⟨_, _, State.bus_readHiddenReg hbusy ?_⟩
    revert r
    decide
  · exact ⟨_, _, (s.bus_readByte ha h24).trans (State.hostRead_freeByte _ (.inl hbusy))⟩

end Sys2Proof.Machine
end

section
/-! PROOFS. The turns of the two agents, and what the host cannot touch while a command is in flight (spec 20_memory.md
R75, R76; O5, O6, O30). -/

namespace Sys2Proof.Machine

/-! ### Turns -/

theorem step_of_unitTurn {s : State} (hunit : s.nextTurn = .unit) (hbusy : s.status.busy = true) :
    step s = s.endTurn.execute := by
  rcases step_cases s with ⟨h, -⟩ | ⟨-, -, e⟩ | ⟨-, h, -⟩ | ⟨h, -⟩
  · simp [hunit] at h
  · exact e
  · simp [hbusy] at h
  · simp [hunit] at h

theorem step_of_hostTurn {s : State} (hhost : s.nextTurn = .host) : step s = .next s.endTurn.hostMove := by
  simp [step, hhost, State.move]

/-- The unit runs the command its latched word selects (R91). -/
theorem State.execute_of_decode {s : State} {i : Instr} (h : decode s.params s.cmd = .ok i) : s.execute = exec i s := by
  simp [State.execute, h]

theorem State.hostMove_of_access {s : State} {a : Access} {rest : List HostAction} (h : s.script = .access a :: rest) :
    s.hostMove = State.bus { s with script := rest } a := by
  simp [State.hostMove, h]

/-! ### The command in flight -/

/-- The two states differ at most in CTRL, in STATUS short of BUSY, and in what reads leave behind: the replies and the
counter of free values. -/
def CommandHeld (s t : State) : Prop :=
  ∃ ctrl status replies draws, status.busy = s.status.busy ∧
    t = { s with ctrl := ctrl, status := status, replies := replies, draws := draws }

theorem CommandHeld.refl (s : State) : CommandHeld s s := ⟨_, _, _, _, rfl, rfl⟩

theorem CommandHeld.setStatus (s : State) {status : Status} (h : status.busy = s.status.busy) :
    CommandHeld s { s with status := status } :=
  ⟨_, status, _, _, h, rfl⟩

theorem CommandHeld.busy {s t : State} (h : CommandHeld s t) : t.status.busy = s.status.busy := by
  obtain ⟨_, _, _, _, hbusy, rfl⟩ := h
  exact hbusy

theorem CommandHeld.trans {s t u : State} (h : CommandHeld s t) (h' : CommandHeld t u) : CommandHeld s u := by
  obtain ⟨_, _, _, _, hbusy, rfl⟩ := h
  obtain ⟨_, _, _, _, hbusy', rfl⟩ := h'
  exact ⟨_, _, _, _, hbusy'.trans hbusy, rfl⟩

/-- A register write while busy, short of a soft reset, leaves the command in flight alone. -/
theorem State.writeReg_held {s : State} (hbusy : s.status.busy = true) (v : Word) {r : RegName}
    (hsrst : r = .CTRL → v.getLsbD 1 = false) : CommandHeld s (s.writeReg v r) := by
  rcases s.writeReg_cases v r with e | ⟨hr, e⟩ | e | ⟨-, e⟩ | ⟨hidle, -⟩ | ⟨hidle, -⟩
  · rw [e]
    exact .refl s
  · rw [e, s.writeCtrl_of_not_srst (hsrst hr)]
    exact ⟨_, _, _, _, rfl, rfl⟩
  · rw [e]
    exact .setStatus s rfl
  · rw [e]
    exact .setStatus s rfl
  · simp [hbusy] at hidle
  · simp [hbusy] at hidle

/-- A host access while busy, short of a soft reset, leaves the command in flight alone (R76). -/
theorem State.bus_held {s : State} (hbusy : s.status.busy = true) {a : Access} (ha : ¬ SoftResetAccess a) :
    CommandHeld s (s.bus a) := by
  rcases s.bus_cases a with ⟨t, e⟩ | e | ⟨v, r, rfl, e⟩ | ⟨hidle, -⟩ | ⟨-, e⟩
  · rw [e]
    exact ⟨_, _, _, _, rfl, rfl⟩
  · rw [e]
    exact .refl s
  · rw [e]
    refine State.writeReg_held hbusy v ?_
    rintro rfl
    exact Bool.eq_false_iff.2 fun hv => ha ⟨v, rfl, hv⟩
  · simp [hbusy] at hidle
  · rw [e]
    exact .setStatus s rfl

/-- So does any run of accesses, for BUSY stays set along it. -/
theorem State.foldl_bus_held {s : State} (hbusy : s.status.busy = true) {l : List Access}
    (hl : ∀ a ∈ l, ¬ SoftResetAccess a) : CommandHeld s (l.foldl State.bus s) := by
  induction l generalizing s with
  | nil => exact .refl s
  | cons a as ih =>
    obtain ⟨ha, has⟩ := List.forall_mem_cons.1 hl
    have head := State.bus_held hbusy ha
    exact head.trans (ih (head.busy.trans hbusy) has)

/-! ### The obligations -/

/-- Settles O5: the unit's turn is its execute step, and moving the schedule on changes neither CMD nor the parameters. -/
theorem stepRunsDecodedCommand : Obligations.StepRunsDecodedCommand := by
  intro s hunit hbusy
  have hstep := step_of_unitTurn hunit hbusy
  exact ⟨hstep, fun i hi => hstep.trans (State.execute_of_decode (s := s.endTurn) hi)⟩

/-- Settles O6: the host's turn is its move, which is the access at the head of the script. -/
theorem hostTurnTakesOneAccess : Obligations.HostTurnTakesOneAccess := fun s _ _ hhost hscript =>
  (step_of_hostTurn hhost).trans (congrArg _ (State.hostMove_of_access (s := s.endTurn) hscript))

/-- Settles O30: no access of the run touches what `CommandHeld` keeps. -/
theorem operandsStandWhileInFlight : Obligations.OperandsStandWhileInFlight := by
  intro l s hbusy hl
  obtain ⟨_, _, _, _, hbusy', e⟩ := State.foldl_bus_held hbusy hl
  dsimp only
  rw [e]
  exact ⟨if_pos (hbusy'.trans hbusy), rfl, rfl, rfl, rfl, rfl, ⟨rfl, rfl, rfl, rfl⟩, fun _ => rfl⟩

end Sys2Proof.Machine
end

section
/-! PROOFS. The decoder and the assembler against the opcode map (spec 30_encoding.md R85 to R96; O1, O2, O3). -/

namespace Sys2Proof

open Machine

/-! ### The rows of the opcode map -/

theorem encode_eq_rowWord (i : Instr) : encode i = rowWord i := by cases i <;> rfl

theorem encode_toNat_lt (i : Instr) : (encode i).toNat < 512 := by cases i <;> decide

/-- The RSV, OP and Z fields single out the word of a row. -/
theorem fields_select_iff (w : Word) (i : Instr) :
    rsvField w = 0 ∧ decodeOp (opField w).toNat (zField w) = .ok i ↔ w = encode i := by
  have hlt := encode_toNat_lt i
  rw [rsvField_eq_zero_iff, decodeOp_eq_ok_iff, opField_toNat, zField_eq, decide_eq_decide]
  constructor
  · rintro ⟨hrsv, hop, hz⟩
    exact BitVec.eq_of_toNat_eq (by omega)
  · rintro rfl
    exact ⟨by omega, rfl, Iff.rfl⟩

/-- The decoder reads a command that exists from the word of its row, and from no other word (R90). -/
theorem decode_eq_ok_iff (p : Params) (w : Word) (i : Instr) : decode p w = .ok i ↔ i.wf p = true ∧ w = encode i := by
  rw [← fields_select_iff]
  by_cases hrsv : rsvField w = 0
  · cases hrow : decodeOp (opField w).toNat (zField w) with
    | error e => simp [decode_of_rowError hrsv hrow]
    | ok j =>
      rw [decode_of_row hrsv hrow]
      split
      next hwf => simpa [hrsv] using fun hji : j = i => hji ▸ hwf
      next hwf => simpa [hrsv] using fun (hi : i.wf p = true) (hji : j = i) => hwf (hji ▸ hi)
  · exact iff_of_false (by simp [decode_of_rsv hrsv]) fun h => hrsv h.2.1

theorem decode_encode {p : Params} {i : Instr} (h : i.wf p = true) : decode p (encode i) = .ok i :=
  (decode_eq_ok_iff p _ i).2 ⟨h, rfl⟩

/-- The assembler finds a mnemonic's own row: no two rows share one (R96). -/
theorem assemble_mnemonic (i : Instr) : assemble (mnemonic i) = some (rowWord i) := by cases i <;> decide

theorem assemble_eq_some_iff (m : String) (w : Word) : assemble m = some w ↔ ∃ i, mnemonic i = m ∧ rowWord i = w := by
  constructor
  · intro h
    obtain ⟨i, hfind, hw⟩ := Option.map_eq_some_iff.1 h
    exact ⟨i, by simpa using List.find?_some hfind, (encode_eq_rowWord i).symm.trans hw⟩
  · rintro ⟨i, rfl, rfl⟩
    exact assemble_mnemonic i

/-! ### Illegal words -/

/-- The optional group is the rows with OP 0x05 to 0x08. -/
theorem Instr.needsBits_iff (i : Instr) :
    i.needsBits = true ↔ 5 ≤ (encode i).toNat % 256 ∧ (encode i).toNat % 256 ≤ 8 := by
  cases i <;> decide

theorem Instr.not_wf_iff (p : Params) (i : Instr) :
    ¬ i.wf p = true ↔ p.hasBits = false ∧ 5 ≤ (encode i).toNat % 256 ∧ (encode i).toNat % 256 ≤ 8 := by
  rw [← i.needsBits_iff]
  simp [Instr.wf, and_comm]

theorem illegalWord_of_rsvField {p : Params} {w : Word} (h : rsvField w ≠ 0) : IllegalWord p w :=
  .inl (mt (rsvField_eq_zero_iff w).2 h)

/-- A word whose fields OP and Z select no row is illegal by one of them (R86, R87). -/
theorem illegalWord_of_rowError {p : Params} {w : Word} {e : Illegal}
    (h : decodeOp (opField w).toNat (zField w) = .error e) : IllegalWord p w := by
  have hrow := (decodeOp_eq_error_iff _ _).1 ⟨e, h⟩
  rw [opField_toNat, zField_eq, decide_eq_true_eq] at hrow
  exact .inr (hrow.imp_right .inl)

/-- The word of a row has no illegal field, so it is illegal exactly where its command does not exist (R90). -/
theorem illegalWord_encode_iff (p : Params) (i : Instr) : IllegalWord p (encode i) ↔ ¬ i.wf p = true := by
  have hlt := encode_toNat_lt i
  have hrow : ¬ ∃ e, decodeOp (opField (encode i)).toNat (zField (encode i)) = .error e := by
    rw [((fields_select_iff _ i).2 rfl).2]
    simp
  rw [decodeOp_eq_error_iff, opField_toNat, zField_eq, decide_eq_true_eq, not_or] at hrow
  rw [Instr.not_wf_iff, IllegalWord]
  constructor
  · rintro (h | h | h | h)
    · omega
    · exact absurd h hrow.1
    · exact absurd h hrow.2
    · exact h
  · exact fun h => .inr (.inr (.inr h))

theorem decode_error_iff_illegalWord (p : Params) (w : Word) : (∃ e, decode p w = .error e) ↔ IllegalWord p w := by
  by_cases hrsv : rsvField w = 0
  · cases hrow : decodeOp (opField w).toNat (zField w) with
    | error e => exact iff_of_true ⟨e, decode_of_rowError hrsv hrow⟩ (illegalWord_of_rowError hrow)
    | ok i =>
      obtain rfl := (fields_select_iff w i).1 ⟨hrsv, hrow⟩
      rw [illegalWord_encode_iff, decode_of_row hrsv hrow]
      split <;> simp [*]
  · exact iff_of_true ⟨_, decode_of_rsv hrsv⟩ (illegalWord_of_rsvField hrsv)

/-! ### The obligations -/

/-- Settles O1: the fields of a word select a row exactly when it is the row's word, and each mnemonic finds its row. -/
theorem decoderSelectsExactlyTheTableRows : Obligations.DecoderSelectsExactlyTheTableRows :=
  ⟨encode_eq_rowWord, decode_eq_ok_iff, assemble_eq_some_iff⟩

/-- Settles O2: the written words are the words of seven rows. -/
theorem writtenWordsDecode : Obligations.WrittenWordsDecode :=
  ⟨decode_encode (i := .nop) rfl, decode_encode (i := .tencz) rfl, decode_encode (i := .enc) rfl,
    decode_encode (i := .decz) rfl, decode_encode (i := .bdecb) rfl, decode_encode (i := .filt85z) rfl,
    decode_encode (i := .wrap) rfl⟩

/-- Settles O3: a word with RSV set or without a row is both rejected and illegal, and a row's word is either exactly where
its command does not exist. -/
theorem decoderRejectsExactlyTheIllegalWords : Obligations.DecoderRejectsExactlyTheIllegalWords :=
  decode_error_iff_illegalWord

end Sys2Proof
end

section
/-! PROOFS. An illegal word accepted and executed (spec 30_encoding.md R93; 60_exceptions.md R199; O4), and a round of the
host's `wait` (30_encoding.md R98; O7). -/

namespace Sys2Proof.Machine

theorem State.execute_of_decodeError {s : State} {e : Illegal} (h : decode s.params s.cmd = .error e) :
    s.execute = .next (s.raiseErr .illegal 0) := by
  simp [State.execute, h, State.rejectWord]

/-- A round of `wait` comes round again while BUSY is 1, and reads STATUS (R98). -/
theorem State.hostMove_of_wait {s : State} {rest : List HostAction} (h : s.script = .wait :: rest) :
    s.hostMove = State.bus { s with script := if s.status.busy then s.script else rest } readStatus := by
  have hread : s.readValue (.reg .STATUS) = s.status.word :=
    if_neg (by simp [RegName.hiddenWhileBusy])
  simp [State.hostMove, h, hread, BitVec.getLsbD_eq_getElem]

/-! ### The obligations -/

/-- Settles O4: the accepted word is rejected at decode, and the rejection is the ILLEGAL completion. -/
theorem illegalWordCompletesWithIllegal : Obligations.IllegalWordCompletesWithIllegal := by
  refine ⟨rfl, fun s w hidle hillegal => ?_⟩
  obtain ⟨e, he⟩ := (decode_error_iff_illegalWord s.params w).2 hillegal
  exact ⟨s.accept w, _, commandWriteIsAccepted s w hidle, rfl, rfl, rfl, State.execute_of_decodeError he,
    ((s.accept w).raiseErr_failed 0 _ _).1⟩

/-- Settles O7: the host's turn is a round of `wait`, and STATUS is never hidden from a read. -/
theorem waitReadsStatusUntilIdle : Obligations.WaitReadsStatusUntilIdle := fun s _ hhost hscript =>
  (step_of_hostTurn hhost).trans <| congrArg _ <|
    (State.hostMove_of_wait (s := s.endTurn) hscript).trans (State.bus_readVisibleReg _ .STATUS rfl)

end Sys2Proof.Machine
end

section
/-! PROOFS. Commands on two states that agree on the command's operands (spec 30_encoding.md R89; O60): the register forms
write the same values, and a transfer or a filter takes the same branch in both states and writes the same bytes. -/

namespace Sys2Proof.Machine

/-! ### What the commands read -/

theorem State.xBytes_congr {s s' : State} {n : Nat} (h : ∀ i, i < n → s'.xByte i = s.xByte i) :
    s'.xBytes n = s.xBytes n :=
  List.map_congr_left fun i hi => h i (List.mem_range.1 hi)

theorem State.validRange_congr {s s' : State} (h : s'.params = s.params) (a n : Nat) :
    s'.validRange a n = s.validRange a n := by
  simp only [State.validRange, h]

/-- The two states agree on the source range, its bytes, the parameters and the free values to come: all that a buffer
command reads on its way to its output. -/
structure SourceAgrees (s s' : State) : Prop where
  params : s'.params = s.params
  draws : s'.draws = s.draws
  src : s'.src = s.src
  len : s'.len = s.len
  bytes : ∀ a, s.src.toNat ≤ a → a < s.src.toNat + s.len.toNat → Memory.read? s'.buf a = Memory.read? s.buf a

theorem SourceAgrees.draw {s s' : State} (h : SourceAgrees s s') (n : Nat) : SourceAgrees (s.draw n) (s'.draw n) :=
  ⟨h.params, congrArg (· + n) h.draws, h.src, h.len, h.bytes⟩

theorem SourceAgrees.input {s s' : State} (h : SourceAgrees s s') : s'.input = s.input :=
  State.input_congr h.draws h.src h.len h.bytes

/-! ### Buffer commands side by side -/

/-- From `s` and `s'` a buffer command has ended alike in `t` and `t'`, and a success has left the same `n` bytes at `a`. -/
structure EndAlike (s s' t t' : State) (a n : Nat) : Prop where
  err : t'.status.err = t.status.err
  errinfo : t'.errinfo = t.errinfo
  olen : t'.olen = t.olen
  aux : t'.aux = t.aux
  col : s'.col = s.col → t'.col = t.col
  bytes : t.status.err = .none → ∀ x, a ≤ x → x < a + n → Memory.read? t'.buf x = Memory.read? t.buf x

section
variable {s s' : State}

/-- Taking free values does not change where a command starts from. -/
theorem EndAlike.of_draw {t t' : State} {a n d : Nat} (h : EndAlike (s.draw d) (s'.draw d) t t' a n) :
    EndAlike s s' t t' a n :=
  ⟨h.err, h.errinfo, h.olen, h.aux, h.col, h.bytes⟩

theorem State.raiseErr_alike {e : ErrCode} (he : e ≠ .none) (info : Word) (a n : Nat) :
    EndAlike s s' (s.raiseErr e info) (s'.raiseErr e info) a n :=
  ⟨rfl, rfl, rfl, rfl, id, fun h => absurd h he⟩

theorem State.delivered_alike (hdst : s'.dst = s.dst) (c : Chunk) :
    EndAlike s s' (s.delivered c) (s'.delivered c) s.dst.toNat (s.delivered c).olen.toNat := by
  refine ⟨rfl, rfl, rfl, rfl, congrArg (c.col.map countWord).getD, fun _ x hlo hhi => ?_⟩
  have hcount : (s.delivered c).olen.toNat ≤ c.out.length := countWord_toNat_le _
  show Memory.read? (Memory.writeBytes s'.buf s'.dst.toNat c.out) x =
    Memory.read? (Memory.writeBytes s.buf s.dst.toNat c.out) x
  rw [hdst, Memory.read?_writeBytes, Memory.read?_writeBytes, if_pos (by omega), if_pos (by omega)]

/-- A filter writes the same bytes, and those it leaves alone in the source range were the same before. -/
theorem State.filtered_alike (h : SourceAgrees s s') (k : List Byte) :
    EndAlike s s' (s.filtered k) (s'.filtered k) s.src.toNat s.len.toNat := by
  refine ⟨rfl, rfl, rfl, congrArg (fun l : Word => countWord (l.toNat - k.length)) h.len, id, fun _ x hlo hhi => ?_⟩
  show Memory.read? (Memory.writeBytes s'.buf s'.src.toNat k) x = Memory.read? (Memory.writeBytes s.buf s.src.toNat k) x
  rw [h.src, Memory.read?_writeBytes, Memory.read?_writeBytes, h.bytes x hlo hhi]

theorem State.deliver_eq (s : State) (c : Chunk) : s.deliver c =
    if !s.validRange s.dst.toNat c.out.length then s.raiseErr .bounds 1
    else if rangesOverlap s.src.toNat s.len.toNat s.dst.toNat c.out.length then s.raiseErr .overlap 0
    else s.delivered c :=
  rfl

theorem State.deliver_alike (h : SourceAgrees s s') (hdst : s'.dst = s.dst) (c : Chunk) :
    EndAlike s s' (s.deliver c) (s'.deliver c) s.dst.toNat (s.deliver c).olen.toNat := by
  simp only [State.deliver_eq, h.src, h.len, hdst, State.validRange_congr h.params]
  split
  · exact State.raiseErr_alike (by decide) _ _ _
  · split
    · exact State.raiseErr_alike (by decide) _ _ _
    · exact State.delivered_alike hdst c

/-- The source check, the transform and the delivery go the same way in both states. -/
theorem State.transcode_alike (h : SourceAgrees s s') (hdst : s'.dst = s.dst) (f : List Byte → Except Nat Chunk) :
    EndAlike s s' (s.transcode f) (s'.transcode f) s.dst.toNat (s.transcode f).olen.toNat := by
  simp only [State.transcode, h.input, h.src, h.len, State.validRange_congr h.params]
  split
  · exact State.raiseErr_alike (by decide) _ _ _
  · split
    · exact .of_draw (State.raiseErr_alike (by decide) _ _ _)
    · exact .of_draw (State.deliver_alike (h.draw _) hdst _)

theorem State.filterInPlace_eq (s : State) (keep : Byte → Bool) : s.filterInPlace keep =
    if !s.validRange s.src.toNat s.len.toNat then s.raiseErr .bounds 0
    else (s.draw s.len.toNat).filtered (s.input.filter keep) :=
  rfl

theorem State.filterInPlace_alike (h : SourceAgrees s s') (keep : Byte → Bool) :
    EndAlike s s' (s.filterInPlace keep) (s'.filterInPlace keep) s.src.toNat s.len.toNat := by
  simp only [State.filterInPlace_eq, h.input, h.src, h.len, State.validRange_congr h.params]
  split
  · exact State.raiseErr_alike (by decide) _ _ _
  · exact .of_draw (State.filtered_alike (h.draw _) _)

end

/-! ### The obligation -/

/-- Settles O60: the register forms by the values they compute, the transfers and the filters side by side. -/
theorem commandsReadOnlyTheirOperands : Obligations.CommandsReadOnlyTheirOperands := by
  intro i s s' t t' hagree h h'
  have kept := (exec_completed h).control
  cases i
  case nop => cases h; cases h'; constructor <;> simp
  case tenc | benc =>
    simp only [OperandsAgree] at hagree
    cases h; cases h'
    constructor <;> simp [hagree]
  case tencz =>
    simp only [OperandsAgree] at hagree
    simp only [exec, execTencz, hagree] at h h'
    split at h
    next hz => cases h; cases (if_pos hz).symm.trans h'; constructor <;> simp
    next hnz => cases h; cases (if_neg hnz).symm.trans h'; constructor <;> simp
  case tdec | bdec =>
    have hx := State.xBytes_congr hagree
    cases h; cases h'
    constructor <;> simp [hx]
  case enc | encz | dec | decz | bencb | bdecb =>
    obtain ⟨hparams, hdraws, hsrc, hlen, hdst, hbytes⟩ := hagree
    have e : EndAlike s s' t t' s.dst.toNat t.olen.toNat := by
      cases h; cases h'
      exact State.transcode_alike ⟨hparams, hdraws, hsrc, hlen, hbytes⟩ hdst _
    exact ⟨e.err, e.errinfo, fun _ => ⟨e.olen, e.aux⟩, by simp, by simp, nofun, fun _ => kept.dst ▸ e.bytes, by simp⟩
  case filt85 | filt85z | filtbin =>
    obtain ⟨hparams, hdraws, hsrc, hlen, hbytes⟩ := hagree
    have e : EndAlike s s' t t' s.src.toNat s.len.toNat := by
      cases h; cases h'
      exact State.filterInPlace_alike ⟨hparams, hdraws, hsrc, hlen, hbytes⟩ _
    exact ⟨e.err, e.errinfo, fun _ => ⟨e.olen, e.aux⟩, by simp, by simp, nofun, by simp,
      fun _ => kept.src ▸ kept.len ▸ e.bytes⟩
  case wrap =>
    obtain ⟨hparams, hdraws, hsrc, hlen, hdst, hwrap, hcol, hbytes⟩ := hagree
    have e : EndAlike s s' t t' s.dst.toNat t.olen.toNat := by
      simp only [exec, execWrap, hwrap, hcol] at h h'
      split at h
      next hbad =>
        cases h; cases (if_pos hbad).symm.trans h'
        exact State.raiseErr_alike (by decide) _ _ _
      next hok =>
        cases h; cases (if_neg hok).symm.trans h'
        exact State.transcode_alike ⟨hparams, hdraws, hsrc, hlen, hbytes⟩ hdst _
    exact ⟨e.err, e.errinfo, fun _ => ⟨e.olen, e.aux⟩, by simp, by simp, fun _ => e.col hcol,
      fun _ => kept.dst ▸ e.bytes, by simp⟩

end Sys2Proof.Machine
end

section
/-! PROOFS. The radix-85 tuple codec (spec 40_tuple_codec.md R105 to R111): its characters as digits, its value as a
weighted sum, and the register-form commands built on it (O33 to O37). -/

namespace Sys2Proof.Machine

/-! ### Characters and digits -/

/-- The character of a digit, above '!' and without a carry out of the byte (R105). -/
theorem toNat_ofNat_digit {d : Nat} (h : d ≤ 84) : (BitVec.ofNat 8 (d + 0x21)).toNat = d + 0x21 := by
  rw [BitVec.toNat_ofNat]
  exact Nat.mod_eq_of_lt (by omega)

@[simp] theorem enc85_length (v : Word) : (enc85 v).length = 5 := rfl

theorem enc85_eq_digits (v : Word) :
    enc85 v = [BitVec.ofNat 8 (v.toNat / 85 ^ 4 % 85 + 0x21), BitVec.ofNat 8 (v.toNat / 85 ^ 3 % 85 + 0x21),
      BitVec.ofNat 8 (v.toNat / 85 ^ 2 % 85 + 0x21), BitVec.ofNat 8 (v.toNat / 85 % 85 + 0x21),
      BitVec.ofNat 8 (v.toNat % 85 + 0x21)] := by
  simp [enc85, pow85, chBang, BitVec.ofNat_add]

/-- A byte below '!' weighs as a negative digit modulo 2^32 (R106). -/
theorem digit85_modEq (b : Byte) : (digit85 b : Int) ≡ b.toNat - 0x21 [ZMOD 2 ^ 32] := by
  have hd : digit85 b = (2 ^ 32 - 0x21 + b.toNat) % 2 ^ 32 := by
    simp [digit85, chBang, BitVec.toNat_sub]
  unfold Int.ModEq
  omega

theorem dec85_toNat (b0 b1 b2 b3 b4 : Byte) :
    (dec85 [b0, b1, b2, b3, b4]).toNat =
      (digit85 b0 * 85 ^ 4 + digit85 b1 * 85 ^ 3 + digit85 b2 * 85 ^ 2 + digit85 b3 * 85 + digit85 b4) % 2 ^ 32 := by
  simp [dec85, pow85, Nat.mul_comm, Nat.add_assoc]

/-! ### The register-form commands -/

theorem State.setX_succeeded (s : State) (l : List Byte) {n : Nat} (hn : n < 2 ^ 32) :
    Succeeded s ((s.setX l).setResult n 0).complete n 0 :=
  s.registerForm_succeeded s.data _ _ hn (by decide)

/-- A command that writes a list to X leaves the list there (R109, R110). -/
theorem State.placed_xByte_of_lt (s : State) (l : List Byte) (n : Nat) {i : Nat} (hi : i < 8) (hl : i < l.length) :
    some (((s.setX l).setResult n 0).complete.xByte i) = l[i]? := by
  rw [State.complete_xByte, s.setX_xByte l hi, List.getD_eq_getElem _ _ hl, List.getElem?_eq_getElem hl]

/-- Behind the list it leaves zeros (R109, R110). -/
theorem State.placed_xByte_of_ge (s : State) (l : List Byte) (n : Nat) {i : Nat} (hi : i < 8) (hl : l.length ≤ i) :
    ((s.setX l).setResult n 0).complete.xByte i = 0 := by
  rw [State.complete_xByte, s.setX_xByte l hi, List.getD_eq_default _ _ hl]

theorem execTenc_completes (s : State) :
    ∃ t, execTenc s = .next t ∧ Succeeded s t 5 0 ∧
      (∀ i, i < 5 → some (t.xByte i) = (enc85 s.data)[i]?) ∧ (∀ i, 5 ≤ i → i < 8 → t.xByte i = 0) ∧
      t.data = s.data ∧ t.col = s.col ∧ SameBuf s t := by
  have hlen := enc85_length s.data
  exact ⟨_, rfl, s.setX_succeeded _ (by decide), fun i hi => s.placed_xByte_of_lt _ _ (by omega) (by omega),
    fun i hlo hhi => s.placed_xByte_of_ge _ _ hhi (by omega), rfl, rfl, fun _ => rfl⟩

/-- TENCZ has a shorthand for the value 0 only (R110). -/
theorem execTencz_of_ne_zero {s : State} (h : s.data ≠ 0) : execTencz s = execTenc s := if_neg h

theorem execTencz_of_zero {s : State} (h : s.data = 0) :
    execTencz s = .next ((s.setX [chZ]).setResult 1 0).complete := if_pos h

/-! ### The obligations -/

/-- Settles O33: the digits are the quotients by the powers of 85, and a 32-bit value leaves the first at most 82. -/
theorem encodedTupleDigits : Obligations.EncodedTupleDigits := by
  intro v
  have hv := v.isLt
  refine ⟨v.toNat / 85 ^ 4 % 85, v.toNat / 85 ^ 3 % 85, v.toNat / 85 ^ 2 % 85, v.toNat / 85 % 85, v.toNat % 85,
    by omega, by omega, by omega, by omega, by omega, by omega, enc85_eq_digits v, fun b hb => ?_⟩
  obtain ⟨d, hd, rfl⟩ : ∃ d, d ≤ 84 ∧ b = BitVec.ofNat 8 (d + 0x21) := by
    rw [enc85_eq_digits] at hb
    simp only [List.mem_cons, List.not_mem_nil, or_false] at hb
    rcases hb with rfl | rfl | rfl | rfl | rfl <;> exact ⟨_, by omega, rfl⟩
  rw [toNat_ofNat_digit hd]
  omega

/-- Settles O34: each byte may be replaced by its digit, since the two agree modulo 2^32. -/
theorem decodedTupleFormula : Obligations.DecodedTupleFormula := by
  intro b0 b1 b2 b3 b4
  rw [dec85_toNat]
  push_cast
  show _ ≡ _ [ZMOD 2 ^ 32]
  gcongr <;> exact digit85_modEq _

/-- Settles O35: the characters of a value decode to the weighted sum of its digits, which is the value (O33, O34). -/
theorem tupleRoundTrip : Obligations.TupleRoundTrip := by
  intro v
  obtain ⟨d0, d1, d2, d3, d4, h0, h1, h2, h3, h4, hsum, henc, -⟩ := encodedTupleDigits v
  have hv := v.isLt
  have hdec := decodedTupleFormula (BitVec.ofNat 8 (d0 + 0x21)) (BitVec.ofNat 8 (d1 + 0x21))
    (BitVec.ofNat 8 (d2 + 0x21)) (BitVec.ofNat 8 (d3 + 0x21)) (BitVec.ofNat 8 (d4 + 0x21))
  rw [toNat_ofNat_digit (by omega), toNat_ofNat_digit h1, toNat_ofNat_digit h2, toNat_ofNat_digit h3,
    toNat_ofNat_digit h4] at hdec
  rw [henc]
  exact BitVec.eq_of_toNat_eq (by omega)

/-- Settles O36: TENC writes the characters of DATA to X; TENCZ is TENC but for DATA = 0, where it writes 'z'. -/
theorem tupleEncodeCommands : Obligations.TupleEncodeCommands := by
  refine ⟨fun p => ⟨decode_encode (i := .tenc) rfl, decode_encode (i := .tencz) rfl⟩,
    fun s => ⟨execTenc_completes s, fun h => ?_, fun h => ?_⟩⟩
  · obtain ⟨t, ht, hrest⟩ := execTenc_completes s
    exact ⟨t, (execTencz_of_ne_zero h).trans ht, hrest⟩
  · exact ⟨_, execTencz_of_zero h, s.setX_succeeded _ (by decide), s.setX_xByte [chZ] (by decide),
      fun i hlo hhi => s.placed_xByte_of_ge [chZ] _ hhi hlo, rfl, rfl, fun _ => rfl⟩

/-- Settles O37: TDEC is the register form that writes DATA and leaves X. -/
theorem tupleDecodeCommand : Obligations.TupleDecodeCommand :=
  ⟨fun _ => decode_encode (i := .tdec) rfl, fun s =>
    ⟨_, rfl, s.registerForm_succeeded _ s.x0 s.x1 (by decide) (by decide), rfl, rfl, rfl, rfl, fun _ => rfl⟩⟩

end Sys2Proof.Machine
end

section
/-! PROOFS. The encoder over a chunk of BUF (spec 41_buffer_codec.md R121 to R123): its output tuple by tuple, its
length, and the characters it is made of (O38). -/

namespace Sys2Proof.Machine

/-! ### Tuples -/

/-- Induction along R121's loop: complete tuples from the front, and a group of fewer than four bytes at the end. -/
theorem tuples_induction {P : List Byte → Prop} (short : ∀ l, l.length < 4 → P l)
    (tuple : ∀ a b c d rest, P rest → P (a :: b :: c :: d :: rest)) : ∀ l, P l
  | [] | [_] | [_, _] | [_, _, _] => short _ (by simp)
  | a :: b :: c :: d :: rest => tuple a b c d rest (tuples_induction short tuple rest)

theorem be32_eq_zero_iff (a b c d : Byte) : be32 a b c d = 0#32 ↔ a = 0#8 ∧ b = 0#8 ∧ c = 0#8 ∧ d = 0#8 := by
  constructor
  · intro h
    have hbytes : [a, b, c, d] = bytesBe32 0#32 := by rw [← h, bytesBe32_be32]
    simpa [bytesBe32] using hbytes
  · rintro ⟨rfl, rfl, rfl, rfl⟩
    rfl

/-- The characters of a complete tuple (R121). -/
def tupleChars (zf : Bool) (a b c d : Byte) : List Byte :=
  if zf = true ∧ a = 0 ∧ b = 0 ∧ c = 0 ∧ d = 0 then [0x7A] else enc85 (be32 a b c d)

theorem chZ_notMem_enc85 (v : Word) : chZ ∉ enc85 v := by
  obtain ⟨_, _, _, _, _, -, -, -, -, -, -, -, hbound⟩ := encodedTupleDigits v
  intro h
  exact absurd (hbound chZ h).2 (by decide)

/-- Every 'z' that a tuple's characters hold stands for four more. -/
theorem tupleChars_length (zf : Bool) (a b c d : Byte) :
    (tupleChars zf a b c d).length + 4 * (tupleChars zf a b c d).count chZ = 5 := by
  unfold tupleChars
  split
  · rfl
  · rw [List.count_eq_zero_of_not_mem (chZ_notMem_enc85 _), enc85_length]

/-! ### The loop over the padded input -/

theorem encTuples_cons (zf : Bool) (n t : Nat) (a b c d : Byte) (rest : List Byte) (h : 4 * t + 4 ≤ n) :
    encTuples zf n t (a :: b :: c :: d :: rest) = tupleChars zf a b c d ++ encTuples zf n (t + 1) rest := by
  simp [encTuples, tupleChars, h, be32_eq_zero_iff, chZ]

/-- Only the distance from the tuple to the end of the unpadded input counts. -/
theorem encTuples_shift (zf : Bool) (n t : Nat) (l : List Byte) :
    encTuples zf (n + 4) (t + 1) l = encTuples zf n t l := by
  induction l using tuples_induction generalizing t with
  | short l h => match l, h with | [], _ | [_], _ | [_, _], _ | [_, _, _], _ => rfl
  | tuple a b c d rest ih =>
    have hcomplete : 4 * (t + 1) + 4 ≤ n + 4 ↔ 4 * t + 4 ≤ n := by omega
    simp only [encTuples, hcomplete, ih]

/-- The characters of the padded input, before the trim (R121). -/
def encPadded (zf : Bool) (l : List Byte) : List Byte :=
  encTuples zf l.length 0 (l ++ List.replicate (encPad l.length) 0)

theorem encChunk_eq (l : List Byte) (zf : Bool) :
    encChunk l zf = { out := (encPadded zf l).take ((encPadded zf l).length - encPad l.length), aux := encPad l.length } :=
  rfl

theorem encPad_add_four (n : Nat) : encPad (n + 4) = encPad n := by simp [encPad]

theorem encPadded_cons (zf : Bool) (a b c d : Byte) (rest : List Byte) :
    encPadded zf (a :: b :: c :: d :: rest) = tupleChars zf a b c d ++ encPadded zf rest := by
  have hlen : (a :: b :: c :: d :: rest).length = rest.length + 4 := rfl
  unfold encPadded
  rw [hlen, encPad_add_four, ← encTuples_shift zf rest.length 0]
  exact encTuples_cons zf _ 0 a b c d _ (by omega)

/-- The word of a final group of fewer than four bytes, padded with zero bytes (R121). -/
def tailWord (l : List Byte) : Word := be32 (l.getD 0 0) (l.getD 1 0) (l.getD 2 0) 0

/-- A final group of 1 to 3 bytes is padded and written in the 5-character form, also when it is zero. -/
theorem encPadded_tail (zf : Bool) {l : List Byte} (h0 : 0 < l.length) (h4 : l.length < 4) :
    encPadded zf l = enc85 (tailWord l) := by
  match l, h0, h4 with
  | [_], _, _ | [_, _], _, _ | [_, _, _], _, _ => simp [encPadded, encPad, encTuples, tailWord]

theorem encPad_of_tail {n : Nat} (h0 : 0 < n) (h4 : n < 4) : encPad n = 4 - n := by
  unfold encPad
  omega

/-- The trim never reaches into a complete tuple: where there is a pad, the last tuple has five characters. -/
theorem encPad_le_length_encPadded (zf : Bool) (l : List Byte) : encPad l.length ≤ (encPadded zf l).length := by
  induction l using tuples_induction with
  | short l h =>
    rcases Nat.eq_zero_or_pos l.length with h0 | h0
    · simp [h0, encPad]
    · rw [encPadded_tail zf h0 h, enc85_length, encPad_of_tail h0 h]
      omega
  | tuple a b c d rest ih =>
    rw [encPadded_cons, List.length_append]
    exact (encPad_add_four rest.length).trans_le (ih.trans (Nat.le_add_left _ _))

/-! ### The chunk -/

@[simp] theorem encChunk_nil (zf : Bool) : encChunk [] zf = { out := [], aux := 0 } := rfl

@[simp] theorem encChunk_aux (l : List Byte) (zf : Bool) : (encChunk l zf).aux = encPad l.length := rfl

theorem encChunk_out_cons (zf : Bool) (a b c d : Byte) (rest : List Byte) :
    (encChunk (a :: b :: c :: d :: rest) zf).out = tupleChars zf a b c d ++ (encChunk rest zf).out := by
  have hpad : encPad (a :: b :: c :: d :: rest).length = encPad rest.length := encPad_add_four rest.length
  have htrim := encPad_le_length_encPadded zf rest
  simp only [encChunk_eq, hpad, encPadded_cons, List.length_append, Nat.add_sub_assoc htrim, List.take_length_add_append]

theorem encChunk_tail (zf : Bool) {l : List Byte} (h0 : 0 < l.length) (h4 : l.length < 4) :
    encChunk l zf = { out := (enc85 (tailWord l)).take (l.length + 1), aux := 4 - l.length } := by
  have htrim : 5 - (4 - l.length) = l.length + 1 := by omega
  rw [encChunk_eq, encPadded_tail zf h0 h4, enc85_length, encPad_of_tail h0 h4, htrim]

theorem chZ_notMem_encChunk_tail (zf : Bool) {l : List Byte} (h4 : l.length < 4) : chZ ∉ (encChunk l zf).out := by
  rcases Nat.eq_zero_or_pos l.length with h0 | h0
  · rw [List.length_eq_zero_iff.1 h0]
    exact List.not_mem_nil
  · rw [encChunk_tail zf h0 h4]
    exact fun h => chZ_notMem_enc85 _ (List.mem_of_mem_take h)

/-- R127 for ENC and ENCZ: one character more than bytes in each group, and each 'z' stands for five. -/
theorem encChunk_length (zf : Bool) (l : List Byte) :
    (encChunk l zf).out.length + 4 * (encChunk l zf).out.count chZ = l.length + (l.length + 3) / 4 := by
  induction l using tuples_induction with
  | short l h =>
    rw [List.count_eq_zero_of_not_mem (chZ_notMem_encChunk_tail zf h)]
    rcases Nat.eq_zero_or_pos l.length with h0 | h0
    · simp [List.length_eq_zero_iff.1 h0]
    · rw [encChunk_tail zf h0 h, List.length_take, enc85_length]
      omega
  | tuple a b c d rest ih =>
    have htuple := tupleChars_length zf a b c d
    rw [encChunk_out_cons, List.length_append, List.count_append]
    simp only [List.length_cons]
    omega

/-- Settles O38: the loop's step for a complete tuple, and its end for a final group. -/
theorem encodeChunkTupleByTuple : Obligations.EncodeChunkTupleByTuple := fun zf =>
  ⟨encChunk_nil zf, fun a b c d rest => ⟨encChunk_out_cons zf a b c d rest, encPad_add_four rest.length⟩,
    fun _ => encChunk_tail zf⟩

end Sys2Proof.Machine
end

section
/-! PROOFS. The decoder over a chunk of BUF (spec 41_buffer_codec.md R124 to R126): what one byte does, groups, the final
group, lengths, and which 'z' makes it fail (O40). -/

namespace Sys2Proof.Machine

/-! ### One byte -/

@[simp] theorem emitBefore_ok (x : List Byte) (c : Chunk) : emitBefore x (.ok c) = .ok { c with out := x ++ c.out } := rfl

@[simp] theorem emitBefore_nil (r : Except Nat Chunk) : emitBefore [] r = r := by cases r <;> rfl

theorem emitBefore_append (x y : List Byte) (r : Except Nat Chunk) :
    emitBefore (x ++ y) r = emitBefore x (emitBefore y r) := by
  cases r <;> simp [emitBefore]

theorem emitBefore_eq_ok_iff {x : List Byte} {r : Except Nat Chunk} {c : Chunk} :
    emitBefore x r = .ok c ↔ ∃ c', r = .ok c' ∧ c = { c' with out := x ++ c'.out } := by
  cases r <;> simp [emitBefore, eq_comm]

/-- The bytes `l` all count as digits: with the shorthand on, none of them is 'z'. -/
def Digits (zf : Bool) (l : List Byte) : Prop := zf = true → chZ ∉ l

theorem digits_cons {zf : Bool} {b : Byte} {l : List Byte} :
    Digits zf (b :: l) ↔ (zf = true → b ≠ chZ) ∧ Digits zf l := by
  simp only [Digits, List.mem_cons, not_or, ne_comm, imp_and]

theorem digits_append {zf : Bool} {l m : List Byte} : Digits zf (l ++ m) ↔ Digits zf l ∧ Digits zf m := by
  simp only [Digits, List.mem_append, not_or, imp_and]

theorem digits_nil (zf : Bool) : Digits zf [] := fun _ => List.not_mem_nil

/-- A 'z' at a group boundary gives four zero bytes. -/
theorem decBytes_z (i : Nat) (rest : List Byte) :
    decBytes true i [] (chZ :: rest) = emitBefore [0, 0, 0, 0] (decBytes true (i + 1) [] rest) := rfl

/-- A 'z' behind pending characters fails at its offset. -/
theorem decBytes_misplaced {g : List Byte} (hg : g ≠ []) (i : Nat) (rest : List Byte) :
    decBytes true i g (chZ :: rest) = .error i := by
  simp [decBytes, hg]

/-- A fifth digit completes its group. -/
theorem decBytes_fifth {zf : Bool} {g : List Byte} {b : Byte} (hb : zf = true → b ≠ chZ) (hg : g.length + 1 = 5)
    (i : Nat) (rest : List Byte) :
    decBytes zf i g (b :: rest) = emitBefore (bytesBe32 (dec85 (g ++ [b]))) (decBytes zf (i + 1) [] rest) := by
  have htest : (zf && b == chZ) = false := by simpa using hb
  simp [decBytes, htest, hg]

/-- Any other digit is kept pending. -/
theorem decBytes_kept {zf : Bool} {g : List Byte} {b : Byte} (hb : zf = true → b ≠ chZ) (hg : g.length + 1 ≠ 5)
    (i : Nat) (rest : List Byte) : decBytes zf i g (b :: rest) = decBytes zf (i + 1) (g ++ [b]) rest := by
  have htest : (zf && b == chZ) = false := by simpa using hb
  simp [decBytes, htest, hg]

/-- These are the only four things the decoder does with a byte. -/
theorem decBytes_cons_cases (zf : Bool) (g : List Byte) (b : Byte) :
    (zf = true ∧ b = chZ ∧ g = [] ∧
      ∀ i rest, decBytes zf i g (b :: rest) = emitBefore [0, 0, 0, 0] (decBytes zf (i + 1) [] rest)) ∨
    (zf = true ∧ b = chZ ∧ g ≠ [] ∧ ∀ i rest, decBytes zf i g (b :: rest) = .error i) ∨
    ((zf = true → b ≠ chZ) ∧ g.length + 1 = 5 ∧
      ∀ i rest, decBytes zf i g (b :: rest) = emitBefore (bytesBe32 (dec85 (g ++ [b]))) (decBytes zf (i + 1) [] rest)) ∨
    ((zf = true → b ≠ chZ) ∧ g.length + 1 ≠ 5 ∧
      ∀ i rest, decBytes zf i g (b :: rest) = decBytes zf (i + 1) (g ++ [b]) rest) := by
  by_cases hz : zf = true ∧ b = chZ
  · obtain ⟨rfl, rfl⟩ := hz
    by_cases hg : g = []
    · subst hg
      exact .inl ⟨rfl, rfl, rfl, decBytes_z⟩
    · exact .inr (.inl ⟨rfl, rfl, hg, decBytes_misplaced hg⟩)
  · have hb : zf = true → b ≠ chZ := fun hzf h => hz ⟨hzf, h⟩
    by_cases hg : g.length + 1 = 5
    · exact .inr (.inr (.inl ⟨hb, hg, decBytes_fifth hb hg⟩))
    · exact .inr (.inr (.inr ⟨hb, hg, decBytes_kept hb hg⟩))

/-! ### Offsets -/

/-- The offset is carried along only to be reported. -/
theorem decBytes_offset (zf : Bool) (i k : Nat) (g l : List Byte) :
    decBytes zf (i + k) g l = (decBytes zf i g l).mapError (· + k) := by
  have emitted : ∀ x (r : Except Nat Chunk), emitBefore x (r.mapError (· + k)) = (emitBefore x r).mapError (· + k) := by
    intro x r
    cases r <;> rfl
  induction l generalizing i g with
  | nil => rfl
  | cons b rest ih =>
    simp only [decBytes, Nat.add_right_comm i k 1, ih, emitted]
    split
    · split <;> rfl
    · split <;> rfl

theorem decBytes_from_zero (zf : Bool) (i : Nat) (g l : List Byte) :
    decBytes zf i g l = (decBytes zf 0 g l).mapError (· + i) := by
  rw [← decBytes_offset, Nat.zero_add]

theorem decBytes_ok_of_ok {zf : Bool} {i : Nat} {g l : List Byte} {c : Chunk} (h : decBytes zf i g l = .ok c) (j : Nat) :
    decBytes zf j g l = .ok c := by
  rw [decBytes_from_zero] at h ⊢
  cases h0 : decBytes zf 0 g l with
  | error k => simp [h0, Except.mapError] at h
  | ok c' => simpa [h0, Except.mapError] using h

/-! ### Groups -/

/-- Fewer than five digits are kept pending. -/
theorem decBytes_pending {zf : Bool} (i : Nat) {g x : List Byte} (l : List Byte) (hx : Digits zf x)
    (hlen : g.length + x.length < 5) : decBytes zf i g (x ++ l) = decBytes zf (i + x.length) (g ++ x) l := by
  induction x generalizing i g with
  | nil => simp
  | cons b x ih =>
    obtain ⟨hb, hx⟩ := digits_cons.1 hx
    simp only [List.length_cons] at hlen
    rw [List.cons_append, decBytes_kept hb (by omega), ih (i + 1) hx (by simp; omega)]
    simp [Nat.add_assoc, Nat.add_comm 1]

/-- Five digits give the four bytes of their value. -/
theorem decBytes_group {zf : Bool} (i : Nat) {b0 b1 b2 b3 b4 : Byte} (rest : List Byte)
    (h : Digits zf [b0, b1, b2, b3, b4]) :
    decBytes zf i [] (b0 :: b1 :: b2 :: b3 :: b4 :: rest) =
      emitBefore (bytesBe32 (dec85 [b0, b1, b2, b3, b4])) (decBytes zf (i + 5) [] rest) := by
  obtain ⟨hfour, hlast⟩ := digits_append.1 (show Digits zf ([b0, b1, b2, b3] ++ [b4]) from h)
  calc decBytes zf i [] ([b0, b1, b2, b3] ++ b4 :: rest)
      = decBytes zf (i + 4) [b0, b1, b2, b3] (b4 :: rest) := decBytes_pending i _ hfour (by simp)
    _ = emitBefore (bytesBe32 (dec85 [b0, b1, b2, b3, b4])) (decBytes zf (i + 5) [] rest) :=
        decBytes_fifth (digits_cons.1 hlast).1 rfl (i + 4) rest

theorem decChunk_tail {zf : Bool} {l : List Byte} (hl : Digits zf l) (h5 : l.length < 5) :
    decChunk l zf = .ok (decTail l) := by
  have h := decBytes_pending (g := []) 0 [] hl (by simpa using h5)
  rwa [List.append_nil] at h

/-- The final group is padded with 'u' to five, and one byte fewer than its characters is kept. -/
theorem decTail_of_pos {g : List Byte} (h0 : 0 < g.length) (h5 : g.length < 5) :
    decTail g = { out := (bytesBe32 (dec85 (g ++ List.replicate (5 - g.length) chU))).take (g.length - 1),
                  aux := 5 - g.length } := by
  have hkeep : 4 - (5 - g.length) = g.length - 1 := by omega
  simp [decTail, List.ne_nil_of_length_pos h0, hkeep]

@[simp] theorem bytesBe32_length (v : Word) : (bytesBe32 v).length = 4 := rfl

theorem decTail_length {g : List Byte} (h5 : g.length < 5) :
    (decTail g).out.length = g.length - 1 ∧ (decTail g).aux = (5 - g.length) % 5 := by
  rcases Nat.eq_zero_or_pos g.length with h0 | h0
  · simp [List.length_eq_zero_iff.1 h0, decTail]
  · rw [decTail_of_pos h0 h5]
    simp only [List.length_take, bytesBe32_length]
    omega

/-- Settles O40: each clause is the decoder's run over one group, or over a group that a 'z' cuts short. -/
theorem decodeChunkGroupByGroup : Obligations.DecodeChunkGroupByGroup := by
  have advance : ∀ zf k x rest, emitBefore x (decBytes zf (0 + k) [] rest) =
      match decChunk rest zf with
      | .ok c => .ok { c with out := x ++ c.out }
      | .error i => .error (i + k) := by
    intro zf k x rest
    rw [decBytes_offset]
    show emitBefore x ((decChunk rest zf).mapError _) = _
    cases decChunk rest zf <;> rfl
  refine fun zf => ⟨rfl, fun b0 b1 b2 b3 b4 rest h => ?_, fun rest => ?_, fun g rest h0 h5 hg => ?_, fun l h0 h5 hl => ?_⟩
  · exact (decBytes_group 0 rest h).trans (advance zf 5 _ rest)
  · exact (decBytes_z 0 rest).trans (advance true 1 _ rest)
  · have hpend := decBytes_pending (zf := true) (g := []) 0 (chZ :: rest) (fun _ => hg) (by simpa using h5)
    rw [Nat.zero_add, List.nil_append, decBytes_misplaced (List.ne_nil_of_length_pos h0)] at hpend
    exact hpend
  · exact (decChunk_tail hl h5).trans (congrArg _ (decTail_of_pos h0 h5))

/-! ### Lengths -/

/-- The number of bytes that stand for a zero tuple, misplaced or not. -/
def zCount (zf : Bool) (l : List Byte) : Nat := l.countP fun b => zf && b == chZ

/-- The number of bytes that count as digits. -/
def digitCount (zf : Bool) (l : List Byte) : Nat := l.countP fun b => !(zf && b == chZ)

theorem counts_cons_z (l : List Byte) :
    zCount true (chZ :: l) = zCount true l + 1 ∧ digitCount true (chZ :: l) = digitCount true l := by
  simp [zCount, digitCount]

theorem counts_cons_digit {zf : Bool} {b : Byte} (h : zf = true → b ≠ chZ) (l : List Byte) :
    zCount zf (b :: l) = zCount zf l ∧ digitCount zf (b :: l) = digitCount zf l + 1 := by
  have htest : (zf && b == chZ) = false := by simpa using h
  simp only [zCount, digitCount, List.countP_cons, htest]
  exact ⟨rfl, rfl⟩

theorem zCount_add_digitCount (zf : Bool) (l : List Byte) : zCount zf l + digitCount zf l = l.length := by
  rw [List.length_eq_countP_add_countP fun b => zf && b == chZ]
  simp [zCount, digitCount, beq_eq_decide]

theorem digitCount_false (l : List Byte) : digitCount false l = l.length := by simp [digitCount]

theorem digitCount_true (l : List Byte) : digitCount true l = nonZBefore l l.length := by
  simp [digitCount, nonZBefore, List.countP_eq_length_filter, bne]

/-- The counts of a decode that comes to `zs` accepted 'z' and `m` digits (R127). -/
structure DecCounts (c : Chunk) (zs m : Nat) : Prop where
  out : c.out.length = 4 * zs + 4 * (m / 5) + (m % 5 - 1)
  aux : c.aux = (5 - m % 5) % 5

theorem decTail_counts {g : List Byte} (h5 : g.length < 5) : DecCounts (decTail g) 0 g.length := by
  obtain ⟨hout, haux⟩ := decTail_length h5
  constructor <;> omega

theorem DecCounts.emit_z {c : Chunk} {zs m : Nat} (h : DecCounts c zs m) :
    DecCounts { c with out := [0, 0, 0, 0] ++ c.out } (zs + 1) m where
  out := by
    rw [List.length_append, h.out]
    simp only [List.length_cons, List.length_nil]
    omega
  aux := h.aux

theorem DecCounts.emit_group {c : Chunk} {zs m : Nat} (h : DecCounts c zs m) (v : Word) :
    DecCounts { c with out := bytesBe32 v ++ c.out } zs (m + 5) where
  out := by
    rw [List.length_append, h.out, bytesBe32_length]
    omega
  aux := by rw [h.aux, Nat.add_mod_right]

/-- R127 for DEC and DECZ: four bytes for each 'z' and each complete group, one byte fewer than characters for the final
group. -/
theorem decBytes_counts {zf : Bool} {i : Nat} {g l : List Byte} {c : Chunk} (hg : g.length < 5)
    (h : decBytes zf i g l = .ok c) : DecCounts c (zCount zf l) (g.length + digitCount zf l) := by
  induction l generalizing i g c with
  | nil =>
    cases h
    exact decTail_counts hg
  | cons b rest ih =>
    rcases decBytes_cons_cases zf g b with ⟨rfl, rfl, rfl, e⟩ | ⟨-, -, -, e⟩ | ⟨hb, h5, e⟩ | ⟨hb, h5, e⟩
    · obtain ⟨c', hc', rfl⟩ := emitBefore_eq_ok_iff.1 ((e i rest).symm.trans h)
      obtain ⟨hz, hd⟩ := counts_cons_z rest
      rw [hz, hd]
      exact (ih (by decide) hc').emit_z
    · cases (e i rest).symm.trans h
    · obtain ⟨c', hc', rfl⟩ := emitBefore_eq_ok_iff.1 ((e i rest).symm.trans h)
      obtain ⟨hz, hd⟩ := counts_cons_digit hb rest
      have hm : g.length + (digitCount zf rest + 1) = ([] : List Byte).length + digitCount zf rest + 5 := by simp; omega
      rw [hz, hd, hm]
      exact (ih (by decide) hc').emit_group _
    · obtain ⟨hz, hd⟩ := counts_cons_digit hb rest
      have hm : g.length + (digitCount zf rest + 1) = (g ++ [b]).length + digitCount zf rest := by simp; omega
      rw [hz, hd, hm]
      exact ih (by simp; omega) ((e i rest).symm.trans h)

theorem decChunk_counts {zf : Bool} {l : List Byte} {c : Chunk} (h : decChunk l zf = .ok c) :
    DecCounts c (l.length - digitCount zf l) (digitCount zf l) := by
  have hcounts := decBytes_counts (g := []) (by decide) h
  rwa [List.length_nil, Nat.zero_add, Nat.eq_sub_of_add_eq (zCount_add_digitCount zf l)] at hcounts

/-! ### Failures -/

/-- Without the shorthand no byte is an error (R204). -/
theorem decBytes_false_ok (i : Nat) (g l : List Byte) : ∃ c, decBytes false i g l = .ok c := by
  induction l generalizing i g with
  | nil => exact ⟨_, rfl⟩
  | cons b rest ih =>
    rcases decBytes_cons_cases false g b with ⟨h, -⟩ | ⟨h, -⟩ | ⟨-, -, e⟩ | ⟨-, -, e⟩
    · cases h
    · cases h
    · obtain ⟨c, hc⟩ := ih (i + 1) []
      exact ⟨_, (e i rest).trans (emitBefore_eq_ok_iff.2 ⟨c, hc, rfl⟩)⟩
    · rw [e]; exact ih _ _

theorem decChunk_false_ok (l : List Byte) : ∃ c, decChunk l false = .ok c := decBytes_false_ok 0 [] l

/-- The first misplaced 'z' of `l` is at offset `j`, when `n` digits stand before `l`. -/
def MisplacedAfter (n : Nat) (l : List Byte) (j : Nat) : Prop :=
  l[j]? = some chZ ∧ (n + nonZBefore l j) % 5 ≠ 0 ∧ ∀ k, k < j → l[k]? = some chZ → (n + nonZBefore l k) % 5 = 0

@[simp] theorem nonZBefore_zero (l : List Byte) : nonZBefore l 0 = 0 := by simp [nonZBefore]

theorem nonZBefore_cons_succ (b : Byte) (l : List Byte) (j : Nat) :
    nonZBefore (b :: l) (j + 1) = (if b = chZ then 0 else 1) + nonZBefore l j := by
  by_cases h : b = chZ
  · simp [nonZBefore, h]
  · simp [nonZBefore, h, Nat.add_comm]

theorem misplacedAfter_cons_zero {n : Nat} {b : Byte} {l : List Byte} :
    MisplacedAfter n (b :: l) 0 ↔ b = chZ ∧ n % 5 ≠ 0 := by
  simp [MisplacedAfter]

theorem misplacedAfter_cons_succ {n j : Nat} {b : Byte} {l : List Byte} :
    MisplacedAfter n (b :: l) (j + 1) ↔
      (b = chZ → n % 5 = 0) ∧ MisplacedAfter (n + if b = chZ then 0 else 1) l j := by
  unfold MisplacedAfter
  rw [Nat.forall_lt_succ_left]
  simp only [List.getElem?_cons_succ, List.getElem?_cons_zero, Option.some.injEq, nonZBefore_zero, Nat.add_zero,
    nonZBefore_cons_succ, Nat.add_assoc]
  tauto

theorem misplacedAfter_mod {n m : Nat} (h : n % 5 = m % 5) (l : List Byte) (j : Nat) :
    MisplacedAfter n l j ↔ MisplacedAfter m l j := by
  simp only [MisplacedAfter, Nat.add_mod n, Nat.add_mod m, h]

theorem misplacedAfter_zero_iff {l : List Byte} {j : Nat} : MisplacedAfter 0 l j ↔ FirstMisplacedZ l j := by
  simp only [MisplacedAfter, FirstMisplacedZ, Nat.zero_add]
  refine ⟨fun h => ⟨?_, h⟩, fun h => h.2⟩
  exact (List.getElem?_eq_some_iff.1 h.1).1

/-- A decode that fails names the first misplaced 'z' (R202). -/
theorem misplacedAfter_of_error {i k : Nat} {g l : List Byte} (hg : g.length < 5) (h : decBytes true i g l = .error k) :
    ∃ j, k = i + j ∧ MisplacedAfter g.length l j := by
  induction l generalizing i g with
  | nil => cases h
  | cons b rest ih =>
    have later : ∀ {g'}, g'.length < 5 → decBytes true (i + 1) g' rest = .error k → (b = chZ → g = []) →
        g'.length % 5 = (g.length + if b = chZ then 0 else 1) % 5 →
        ∃ j, k = i + j ∧ MisplacedAfter g.length (b :: rest) j := by
      intro g' hg' h' hz hmod
      obtain ⟨j, rfl, hj⟩ := ih hg' h'
      refine ⟨j + 1, by omega, misplacedAfter_cons_succ.2 ⟨fun hb => by simp [hz hb], ?_⟩⟩
      exact (misplacedAfter_mod hmod rest j).1 hj
    rcases decBytes_cons_cases true g b with ⟨-, rfl, rfl, e⟩ | ⟨-, rfl, hne, e⟩ | ⟨hb, h5, e⟩ | ⟨hb, h5, e⟩
    · exact later (by decide) (emitBefore_eq_error_iff.1 ((e i rest).symm.trans h)) (fun _ => rfl) rfl
    · cases (e i rest).symm.trans h
      refine ⟨0, rfl, misplacedAfter_cons_zero.2 ⟨rfl, ?_⟩⟩
      rw [Nat.mod_eq_of_lt hg]
      exact fun h0 => hne (List.length_eq_zero_iff.1 h0)
    · have hne := hb rfl
      refine later (by decide) (emitBefore_eq_error_iff.1 ((e i rest).symm.trans h)) (fun hz => absurd hz hne) ?_
      simp [hne, h5]
    · have hne := hb rfl
      refine later (by simp; omega) ((e i rest).symm.trans h) (fun hz => absurd hz hne) ?_
      simp [hne]

theorem firstMisplacedZ_of_error {l : List Byte} {k : Nat} (h : decChunk l true = .error k) : FirstMisplacedZ l k := by
  obtain ⟨j, rfl, hj⟩ := misplacedAfter_of_error (g := []) (by decide) h
  rw [Nat.zero_add]
  exact misplacedAfter_zero_iff.1 hj

/-- DECZ decodes input that holds no misplaced 'z' (R126). -/
theorem decChunk_true_ok {l : List Byte} (h : ∀ i, ¬ FirstMisplacedZ l i) : ∃ c, decChunk l true = .ok c := by
  cases hd : decChunk l true with
  | error k => exact absurd (firstMisplacedZ_of_error hd) (h k)
  | ok c => exact ⟨c, rfl⟩

end Sys2Proof.Machine
end

section
/-! PROOFS. The buffer codec's commands (spec 41_buffer_codec.md R122, R123, R125, R126): each is its transfer, and
succeeds where its transform and both ranges do (O39, O41). -/

namespace Sys2Proof.Machine

/-- A transfer command other than WRAP whose transform gives a chunk succeeds with it on good ranges, and keeps COL. -/
theorem exec_transfer_done {s : State} {i : Instr} {f : List Byte → Except Nat Chunk} {c : Chunk}
    (hw : s.params.wf = true) (hi : i ≠ .wrap) (hf : transferOf s i = some f) (hc : f s.input = .ok c)
    (haux : c.aux < 2 ^ 32) (hranges : TransferRangesOk s c.out.length) :
    ∃ t, exec i s = .next t ∧ TransferDone s t c ∧ t.col = s.col := by
  have hexec := (exec_of_transferOf hf fun h => hi h.1).trans (congrArg _ (State.transcode_of_ok hc hranges))
  exact ⟨_, hexec, s.delivered_done c _ hw hranges.2.1 haux, exec_col hi hexec⟩

theorem encChunk_aux_lt (l : List Byte) (zf : Bool) : (encChunk l zf).aux < 2 ^ 32 := by
  rw [encChunk_aux]
  unfold encPad
  omega

theorem decChunk_aux_lt {l : List Byte} {zf : Bool} {c : Chunk} (h : decChunk l zf = .ok c) : c.aux < 2 ^ 32 := by
  rw [(decChunk_counts h).aux]
  omega

/-- Settles O39: the encoder never fails, so good ranges are all it asks for. -/
theorem encodeCommandsComplete : Obligations.EncodeCommandsComplete :=
  ⟨fun _ => ⟨decode_encode (i := .enc) rfl, decode_encode (i := .encz) rfl⟩, fun _ hw =>
    ⟨exec_transfer_done hw (by decide) rfl rfl (encChunk_aux_lt _ _),
      exec_transfer_done hw (by decide) rfl rfl (encChunk_aux_lt _ _)⟩⟩

/-- Settles O41: DEC's transform never fails, and DECZ's fails on a misplaced 'z' only. -/
theorem decodeCommandsComplete : Obligations.DecodeCommandsComplete := by
  refine ⟨fun _ => ⟨decode_encode (i := .dec) rfl, decode_encode (i := .decz) rfl⟩, fun s hw => ⟨?_, fun hz => ?_⟩⟩
  · obtain ⟨c, hc⟩ := decChunk_false_ok s.input
    exact ⟨c, hc, exec_transfer_done hw (by decide) rfl hc (decChunk_aux_lt hc)⟩
  · obtain ⟨c, hc⟩ := decChunk_true_ok hz
    exact ⟨c, hc, exec_transfer_done hw (by decide) rfl hc (decChunk_aux_lt hc)⟩

end Sys2Proof.Machine
end

section
/-! PROOFS. The output lengths of the buffer codec (spec 41_buffer_codec.md R127; O43). -/

namespace Sys2Proof.Machine

theorem zeroTuples_of_short {l : List Byte} (h : l.length < 4) : zeroTuples l = 0 := by
  simp [zeroTuples, Nat.div_eq_of_lt h]

theorem zeroTuples_cons (a b c d : Byte) (rest : List Byte) :
    zeroTuples (a :: b :: c :: d :: rest) = (if [a, b, c, d] = [0, 0, 0, 0] then 1 else 0) + zeroTuples rest := by
  have hlen : (a :: b :: c :: d :: rest).length / 4 = rest.length / 4 + 1 := by
    simp only [List.length_cons]
    omega
  have hdrop : ∀ t, (a :: b :: c :: d :: rest).drop (4 * (t + 1)) = rest.drop (4 * t) := fun t => by
    simp [Nat.mul_add]
  unfold zeroTuples
  rw [hlen, List.range_succ_eq_map, List.filter_cons, List.filter_map]
  simp only [Function.comp_def, Nat.succ_eq_add_one, hdrop]
  show (if ([a, b, c, d] == [0, 0, 0, 0]) = true then _ else _ : List Nat).length = _
  split <;> simp_all [Nat.add_comm]

theorem count_chZ_tupleChars (a b c d : Byte) :
    (tupleChars true a b c d).count chZ = if [a, b, c, d] = [0, 0, 0, 0] then 1 else 0 := by
  by_cases h : [a, b, c, d] = [0, 0, 0, 0]
  · obtain ⟨rfl, rfl, rfl, rfl⟩ : a = 0 ∧ b = 0 ∧ c = 0 ∧ d = 0 := by simpa using h
    rfl
  · rw [tupleChars, if_neg (by simpa using h), if_neg h, List.count_eq_zero_of_not_mem (chZ_notMem_enc85 _)]

/-- ENCZ writes one 'z' for each complete zero tuple, and no other (R123). -/
theorem count_chZ_encChunk_true (l : List Byte) : (encChunk l true).out.count chZ = zeroTuples l := by
  induction l using tuples_induction with
  | short l h => rw [zeroTuples_of_short h, List.count_eq_zero_of_not_mem (chZ_notMem_encChunk_tail true h)]
  | tuple a b c d rest ih =>
    rw [encChunk_out_cons, List.count_append, count_chZ_tupleChars, ih, zeroTuples_cons]

/-- ENC writes no 'z' (R122). -/
theorem chZ_notMem_encChunk_false (l : List Byte) : chZ ∉ (encChunk l false).out := by
  induction l using tuples_induction with
  | short l h => exact chZ_notMem_encChunk_tail false h
  | tuple a b c d rest ih =>
    rw [encChunk_out_cons, List.mem_append, not_or]
    exact ⟨chZ_notMem_enc85 _, ih⟩

theorem encChunk_false_length (l : List Byte) :
    (encChunk l false).out.length = l.length + (l.length + 3) / 4 := by
  have h := encChunk_length false l
  rwa [List.count_eq_zero_of_not_mem (chZ_notMem_encChunk_false l)] at h

theorem decChunk_false_counts {l : List Byte} {c : Chunk} (h : decChunk l false = .ok c) : DecCounts c 0 l.length := by
  simpa [digitCount_false] using decChunk_counts h

/-- Settles O43: the encoder's and the decoder's length lemmas, with the 'z' counted in the input or the output. -/
theorem outputLengths : Obligations.OutputLengths := by
  intro l
  have henc := encChunk_false_length l
  refine ⟨henc, ?_, ?_, fun c hc => ?_, fun c hc => ?_⟩
  · rw [henc, encChunk_aux]
    unfold encPad
    omega
  · rw [← count_chZ_encChunk_true]
    exact encChunk_length true l
  · obtain ⟨hout, haux⟩ := decChunk_false_counts hc
    omega
  · rw [(decChunk_counts hc).out, digitCount_true]

end Sys2Proof.Machine
end

section
/-! PROOFS. Streams in chunks (spec 41_buffer_codec.md R128; O44): an encode is cut at any complete tuple, and a decode
anywhere, if the characters that are pending at the cut go on to the next chunk. -/

namespace Sys2Proof.Machine

theorem encChunk_append {a : List Byte} (h : a.length % 4 = 0) (l : List Byte) (zf : Bool) :
    (encChunk (a ++ l) zf).out = (encChunk a zf).out ++ (encChunk l zf).out ∧
    (encChunk (a ++ l) zf).aux = (encChunk l zf).aux := by
  induction a using tuples_induction with
  | short a h4 =>
    obtain rfl : a = [] := List.length_eq_zero_iff.1 (by omega)
    exact ⟨rfl, rfl⟩
  | tuple a b c d rest ih =>
    obtain ⟨hout, haux⟩ := ih (by simp only [List.length_cons] at h; omega)
    refine ⟨?_, (encPad_add_four (rest ++ l).length).trans haux⟩
    rw [encChunk_out_cons, List.append_assoc, ← hout]
    exact encChunk_out_cons zf a b c d (rest ++ l)

/-- How a decode of `a` that starts with `g` pending goes on into any further bytes: it has emitted `x`, and keeps `g'`
pending, the last bytes it has seen. -/
structure DecResumes (zf : Bool) (g a : List Byte) (x g' : List Byte) : Prop where
  short : g'.length < 5
  digits : Digits zf g'
  suffix : g' <:+ g ++ a
  resume : ∀ i l, decBytes zf i g (a ++ l) = emitBefore x (decBytes zf (i + a.length) g' l)

/-- A 'z' or a fifth digit empties the pending characters and emits the bytes `y`. -/
theorem DecResumes.cons_emitted {zf : Bool} {g a x g' y : List Byte} {b : Byte} (h : DecResumes zf [] a x g')
    (e : ∀ i l, decBytes zf i g (b :: l) = emitBefore y (decBytes zf (i + 1) [] l)) :
    DecResumes zf g (b :: a) (y ++ x) g' where
  short := h.short
  digits := h.digits
  suffix := h.suffix.trans ⟨g ++ [b], by simp⟩
  resume i l := by
    rw [List.cons_append, e, h.resume, emitBefore_append, List.length_cons, Nat.add_assoc, Nat.add_comm 1]

theorem DecResumes.cons_pending {zf : Bool} {g a x g' : List Byte} {b : Byte} (h : DecResumes zf (g ++ [b]) a x g')
    (e : ∀ i l, decBytes zf i g (b :: l) = decBytes zf (i + 1) (g ++ [b]) l) : DecResumes zf g (b :: a) x g' where
  short := h.short
  digits := h.digits
  suffix := by simpa using h.suffix
  resume i l := by rw [List.cons_append, e, h.resume, List.length_cons, Nat.add_assoc, Nat.add_comm 1]

/-- Every decode that does not fail resumes. -/
theorem exists_decResumes {zf : Bool} {i : Nat} {g a : List Byte} {c : Chunk} (hg : g.length < 5) (hdigits : Digits zf g)
    (h : decBytes zf i g a = .ok c) : ∃ x g', DecResumes zf g a x g' := by
  induction a generalizing i g c with
  | nil => exact ⟨[], g, hg, hdigits, by simp, by simp⟩
  | cons b a ih =>
    rcases decBytes_cons_cases zf g b with ⟨-, -, -, e⟩ | ⟨-, -, -, e⟩ | ⟨-, -, e⟩ | ⟨hb, h5, e⟩
    · obtain ⟨c', hc', -⟩ := emitBefore_eq_ok_iff.1 ((e i a).symm.trans h)
      obtain ⟨x, g', hr⟩ := ih (by decide) (digits_nil zf) hc'
      exact ⟨_, g', hr.cons_emitted e⟩
    · cases (e i a).symm.trans h
    · obtain ⟨c', hc', -⟩ := emitBefore_eq_ok_iff.1 ((e i a).symm.trans h)
      obtain ⟨x, g', hr⟩ := ih (by decide) (digits_nil zf) hc'
      exact ⟨_, g', hr.cons_emitted e⟩
    · have hgb : Digits zf (g ++ [b]) := digits_append.2 ⟨hdigits, digits_cons.2 ⟨hb, digits_nil zf⟩⟩
      obtain ⟨x, g', hr⟩ := ih (by simp; omega) hgb ((e i a).symm.trans h)
      exact ⟨x, g', hr.cons_pending e⟩

theorem DecResumes.chunk_eq {zf : Bool} {a x g' : List Byte} {c : Chunk} (h : DecResumes zf [] a x g')
    (hc : decChunk a zf = .ok c) : c = { decTail g' with out := x ++ (decTail g').out } := by
  have hr := h.resume 0 []
  rw [List.append_nil] at hr
  exact Except.ok.inj (hc.symm.trans hr)

/-- What a decode has emitted stands before whatever the pending characters and the further bytes decode to. -/
theorem DecResumes.decChunk_append {zf : Bool} {a x g' l : List Byte} {c : Chunk} (h : DecResumes zf [] a x g')
    (hc : decChunk (g' ++ l) zf = .ok c) : decChunk (a ++ l) zf = .ok { c with out := x ++ c.out } := by
  have hpend := decBytes_pending (g := []) 0 l h.digits (by simpa using h.short)
  have hrest := decBytes_ok_of_ok (hpend.symm.trans hc) (0 + a.length)
  exact (h.resume 0 l).trans (emitBefore_eq_ok_iff.2 ⟨c, hrest, rfl⟩)

/-- R128: a chunk with AUX = 0 leaves nothing pending. -/
theorem decChunk_append_of_aux_zero {zf : Bool} {a l : List Byte} {ca cl : Chunk} (ha : decChunk a zf = .ok ca)
    (haux : ca.aux = 0) (hl : decChunk l zf = .ok cl) :
    decChunk (a ++ l) zf = .ok { cl with out := ca.out ++ cl.out } := by
  obtain ⟨x, g', hr⟩ := exists_decResumes (by decide) (digits_nil zf) ha
  obtain rfl := hr.chunk_eq ha
  obtain rfl : g' = [] := by
    have hg' := hr.short
    have htail := (decTail_length hg').2
    exact List.length_eq_zero_iff.1 (by simp only at haux; omega)
  simpa [decTail] using hr.decChunk_append hl

theorem decChunk_flatten_append {zf : Bool} {cs : List (List Byte)} {l : List Byte} {cl : Chunk}
    (hcs : ∀ c, c ∈ cs → ∃ d, decChunk c zf = .ok d ∧ d.aux = 0) (hl : decChunk l zf = .ok cl) :
    decChunk (cs.flatten ++ l) zf = .ok { out := (cs.map (decOut zf)).flatten ++ cl.out, aux := cl.aux } := by
  induction cs with
  | nil =>
    have hcol := decBytes_col hl
    exact hl.trans (congrArg _ (by cases cl; simp_all))
  | cons c cs ih =>
    obtain ⟨⟨d, hd, haux⟩, hcs⟩ := List.forall_mem_cons.1 hcs
    have hout : decOut zf c = d.out := by simp only [decOut, hd]
    simpa [hout] using decChunk_append_of_aux_zero hd haux (ih hcs)

/-- R128's provisional resubmission: the pending characters are the last 5 - P of the chunk, and the last 4 - P bytes of
its output are what they gave. -/
theorem decChunk_append_of_aux_pos {zf : Bool} {a b : List Byte} {ca cb : Chunk} (ha : decChunk a zf = .ok ca)
    (haux : 0 < ca.aux) (hb : decChunk (a.drop (a.length - (5 - ca.aux)) ++ b) zf = .ok cb) :
    decChunk (a ++ b) zf = .ok { cb with out := ca.out.take (ca.out.length - (4 - ca.aux)) ++ cb.out } := by
  obtain ⟨x, g', hr⟩ := exists_decResumes (by decide) (digits_nil zf) ha
  obtain ⟨htailOut, htailAux⟩ := decTail_length hr.short
  have hca := hr.chunk_eq ha
  have hcaux : ca.aux = (decTail g').aux := by rw [hca]
  have hg' : g'.length = 5 - ca.aux := by have := hr.short; omega
  have hpending : a.drop (a.length - (5 - ca.aux)) = g' := by
    rw [← hg']
    exact (List.suffix_iff_eq_drop.1 (by simpa using hr.suffix)).symm
  have hemitted : ca.out.take (ca.out.length - (4 - ca.aux)) = x := by
    have hout : ca.out = x ++ (decTail g').out := by rw [hca]
    rw [hout]
    exact List.take_left' (by rw [List.length_append]; omega)
  rw [hemitted]
  exact hr.decChunk_append (hpending ▸ hb)

theorem encChunk_flatten_append {cs : List (List Byte)} (hcs : ∀ c, c ∈ cs → c.length % 4 = 0) (l : List Byte) (zf : Bool) :
    (encChunk (cs.flatten ++ l) zf).out = (cs.map fun c => (encChunk c zf).out).flatten ++ (encChunk l zf).out ∧
    (encChunk (cs.flatten ++ l) zf).aux = (encChunk l zf).aux := by
  induction cs with
  | nil => exact ⟨rfl, rfl⟩
  | cons c cs ih =>
    obtain ⟨hc, hcs⟩ := List.forall_mem_cons.1 hcs
    obtain ⟨hout, haux⟩ := ih hcs
    obtain ⟨houtc, hauxc⟩ := encChunk_append hc (cs.flatten ++ l) zf
    rw [List.flatten_cons, List.append_assoc, houtc, hauxc, hout]
    exact ⟨(List.append_assoc ..).symm, haux⟩

/-- Settles O44: one chunk after another, each cut by the lemma on appending to it. -/
theorem chunksConcatenate : Obligations.ChunksConcatenate := by
  refine ⟨fun zf cs l hcs => encChunk_flatten_append hcs l zf, fun cs l cl hcs hl => ?_,
    fun cs l cl hcs hl => decChunk_flatten_append hcs hl, fun a b ca cb ha haux hb => ?_⟩
  · refine decChunk_flatten_append (fun c hc => ?_) hl
    obtain ⟨d, hd⟩ := decChunk_false_ok c
    have haux := (decChunk_false_counts hd).aux
    rw [hcs c hc] at haux
    exact ⟨d, hd, haux⟩
  · have hcol := decBytes_col hb
    exact (decChunk_append_of_aux_pos ha haux hb).trans (by rw [hcol])

end Sys2Proof.Machine
end

section
/-! PROOFS. The round trips of the buffer codec (spec 41_buffer_codec.md R129; O45): tuple by tuple, with the trimmed
final group decoded from its upper digits. -/

namespace Sys2Proof.Machine

/-- The characters of a complete tuple decode to its bytes, under the shorthand that wrote them or a wider one. -/
theorem decChunk_tupleChars_append {zf zf' : Bool} (hz : zf = true → zf' = true) (a b c d : Byte) {l : List Byte}
    {ch : Chunk} (h : decChunk l zf' = .ok ch) :
    decChunk (tupleChars zf a b c d ++ l) zf' = .ok { ch with out := [a, b, c, d] ++ ch.out } := by
  unfold tupleChars
  split
  next hzero =>
    obtain ⟨hzf, rfl, rfl, rfl, rfl⟩ := hzero
    obtain rfl := hz hzf
    exact (decBytes_z 0 l).trans (emitBefore_eq_ok_iff.2 ⟨ch, decBytes_ok_of_ok h 1, rfl⟩)
  next =>
    have hbytes : bytesBe32 (dec85 (enc85 (be32 a b c d))) = [a, b, c, d] := by
      rw [tupleRoundTrip, bytesBe32_be32]
    have hgroup := decBytes_group (zf := zf') 0 l fun _ => chZ_notMem_enc85 (be32 a b c d)
    exact hgroup.trans (emitBefore_eq_ok_iff.2 ⟨ch, decBytes_ok_of_ok h 5, hbytes ▸ rfl⟩)

/-- The characters of five digits decode to the weighted sum of the digits, when it fits in a word. -/
theorem dec85_digits {d0 d1 d2 d3 d4 : Nat} (h0 : d0 ≤ 84) (h1 : d1 ≤ 84) (h2 : d2 ≤ 84) (h3 : d3 ≤ 84) (h4 : d4 ≤ 84)
    (hsum : d0 * 85 ^ 4 + d1 * 85 ^ 3 + d2 * 85 ^ 2 + d3 * 85 + d4 < 2 ^ 32) :
    (dec85 [BitVec.ofNat 8 (d0 + 0x21), BitVec.ofNat 8 (d1 + 0x21), BitVec.ofNat 8 (d2 + 0x21),
      BitVec.ofNat 8 (d3 + 0x21), BitVec.ofNat 8 (d4 + 0x21)]).toNat =
      d0 * 85 ^ 4 + d1 * 85 ^ 3 + d2 * 85 ^ 2 + d3 * 85 + d4 := by
  have hdec := decodedTupleFormula (BitVec.ofNat 8 (d0 + 0x21)) (BitVec.ofNat 8 (d1 + 0x21))
    (BitVec.ofNat 8 (d2 + 0x21)) (BitVec.ofNat 8 (d3 + 0x21)) (BitVec.ofNat 8 (d4 + 0x21))
  rw [toNat_ofNat_digit h0, toNat_ofNat_digit h1, toNat_ofNat_digit h2, toNat_ofNat_digit h3,
    toNat_ofNat_digit h4] at hdec
  omega

/-- Replacing the last 1 to 3 characters by 'u' raises the value by less than 85^p. -/
theorem dec85_padded (v : Word) {p : Nat} (h0 : 0 < p) (h4 : p < 4) (hv : v.toNat + 85 ^ p ≤ 2 ^ 32) :
    ∃ r, r < 85 ^ p ∧ (dec85 ((enc85 v).take (5 - p) ++ List.replicate p chU)).toNat = v.toNat + r := by
  obtain ⟨d0, d1, d2, d3, d4, hd0, hd1, hd2, hd3, hd4, hsum, henc, -⟩ := encodedTupleDigits v
  have hd0' : d0 ≤ 84 := by omega
  have hu : (84 : Nat) ≤ 84 := Nat.le_refl 84
  rw [henc]
  match p, h0, h4 with
  | 1, _, _ => exact ⟨84 - d4, by omega, (dec85_digits hd0' hd1 hd2 hd3 hu (by omega)).trans (by omega)⟩
  | 2, _, _ =>
    exact ⟨(84 - d3) * 85 + (84 - d4), by omega, (dec85_digits hd0' hd1 hd2 hu hu (by omega)).trans (by omega)⟩
  | 3, _, _ =>
    exact ⟨(84 - d2) * 85 ^ 2 + (84 - d3) * 85 + (84 - d4), by omega,
      (dec85_digits hd0' hd1 hu hu hu (by omega)).trans (by omega)⟩

theorem pow_dvd_tailWord {l : List Byte} (h0 : 0 < l.length) (h4 : l.length < 4) :
    256 ^ (4 - l.length) ∣ (tailWord l).toNat := by
  rw [tailWord, be32_toNat]
  match l, h0, h4 with
  | [_], _, _ | [_, _], _, _ | [_, _, _], _, _ => simp <;> omega

theorem take_bytesBe32_tailWord {l : List Byte} (h4 : l.length < 4) : (bytesBe32 (tailWord l)).take l.length = l := by
  rw [tailWord, bytesBe32_be32]
  match l, h4 with
  | [], _ | [_], _ | [_, _], _ | [_, _, _], _ => rfl

/-- The first `n` bytes of a word are determined by its quotient by 256^(4 - n). -/
theorem take_bytesBe32_congr {v w : Word} {n : Nat} (h0 : 0 < n) (h4 : n < 4)
    (h : v.toNat / 256 ^ (4 - n) = w.toNat / 256 ^ (4 - n)) : (bytesBe32 v).take n = (bytesBe32 w).take n := by
  have h1 : v.toNat / 2 ^ 24 = w.toNat / 2 ^ 24 := by
    match n, h0, h4 with
    | 1, _, _ | 2, _, _ | 3, _, _ => omega
  rw [bytesBe32_eq, bytesBe32_eq]
  match n, h0, h4 with
  | 1, _, _ => simp only [List.take_succ_cons, List.take_zero, h1]
  | 2, _, _ =>
    have h2 : v.toNat / 2 ^ 16 = w.toNat / 2 ^ 16 := h
    simp only [List.take_succ_cons, List.take_zero, h1, h2]
  | 3, _, _ =>
    have h2 : v.toNat / 2 ^ 16 = w.toNat / 2 ^ 16 := by omega
    have h3 : v.toNat / 2 ^ 8 = w.toNat / 2 ^ 8 := h
    simp only [List.take_succ_cons, List.take_zero, h1, h2, h3]

/-- Below the next multiple of 256^(4 - n) there is room for any pad. -/
theorem tailWord_add_pow_le {l : List Byte} (h0 : 0 < l.length) (h4 : l.length < 4) :
    (tailWord l).toNat + 256 ^ (4 - l.length) ≤ 2 ^ 32 := by
  have hlt := (tailWord l).isLt
  obtain ⟨q, hq⟩ := pow_dvd_tailWord h0 h4
  have hmul : 256 ^ (4 - l.length) * 256 ^ l.length = 2 ^ 32 := by
    rw [← pow_add, Nat.sub_add_cancel h4.le]
    rfl
  rw [hq, ← hmul] at hlt
  rw [hq, ← hmul, ← Nat.mul_succ]
  exact Nat.mul_le_mul_left _ (Nat.lt_of_mul_lt_mul_left hlt)

/-- The trimmed characters of a final group decode to its bytes: the 'u's that stand for the characters trimmed change
only the bytes that are trimmed again. -/
theorem decTail_take_enc85 {l : List Byte} (h0 : 0 < l.length) (h4 : l.length < 4) :
    decTail ((enc85 (tailWord l)).take (l.length + 1)) = { out := l, aux := 4 - l.length } := by
  have hlen : ((enc85 (tailWord l)).take (l.length + 1)).length = l.length + 1 := by
    rw [List.length_take, enc85_length]
    omega
  have hkept : 5 - (4 - l.length) = l.length + 1 := by omega
  have hpad : 5 - (l.length + 1) = 4 - l.length := by omega
  have hpow : 85 ^ (4 - l.length) ≤ 256 ^ (4 - l.length) := Nat.pow_le_pow_left (by decide) _
  have hpos : 0 < 256 ^ (4 - l.length) := Nat.pow_pos (by decide)
  have hroom := tailWord_add_pow_le h0 h4
  obtain ⟨q, hq⟩ := pow_dvd_tailWord h0 h4
  obtain ⟨r, hr, hw⟩ := dec85_padded (tailWord l) (p := 4 - l.length) (by omega) (by omega) (by omega)
  rw [hkept] at hw
  have hquot : (tailWord l).toNat / 256 ^ (4 - l.length) = (dec85 ((enc85 (tailWord l)).take (l.length + 1) ++
      List.replicate (4 - l.length) chU)).toNat / 256 ^ (4 - l.length) := by
    rw [hw, hq, Nat.mul_add_div hpos, Nat.div_eq_of_lt (hr.trans_le hpow), Nat.mul_div_cancel_left _ hpos, Nat.add_zero]
  rw [decTail_of_pos (by omega) (by omega), hlen, hpad, Nat.add_sub_cancel, ← take_bytesBe32_congr h0 h4 hquot,
    take_bytesBe32_tailWord h4]

/-- R129: what the decoder makes of an encoder's output, under the shorthand that wrote it or a wider one. -/
theorem decChunk_encChunk {zf zf' : Bool} (hz : zf = true → zf' = true) (l : List Byte) :
    decChunk (encChunk l zf).out zf' = .ok { out := l, aux := (encChunk l zf).aux } := by
  induction l using tuples_induction with
  | short l h4 =>
    rcases Nat.eq_zero_or_pos l.length with h0 | h0
    · rw [List.length_eq_zero_iff.1 h0]
      rfl
    · have hlen : (encChunk l zf).out.length < 5 := by
        have h := encChunk_length zf l
        omega
      rw [decChunk_tail (fun _ => chZ_notMem_encChunk_tail zf h4) hlen, encChunk_tail zf h0 h4]
      exact congrArg _ (decTail_take_enc85 h0 h4)
  | tuple a b c d rest ih =>
    rw [encChunk_out_cons, decChunk_tupleChars_append hz a b c d ih]
    exact congrArg _ (by rw [encChunk_aux, encChunk_aux, ← encPad_add_four]; rfl)

/-- DEC of an ENCZ output that holds a 'z' gives too few bytes: each 'z' stands where DEC needs five characters. -/
theorem decChunk_false_length_lt {l : List Byte} {c : Chunk} (hz : chZ ∈ (encChunk l true).out)
    (h : decChunk (encChunk l true).out false = .ok c) : c.out.length < l.length := by
  have hlen := encChunk_length true l
  have hcount := List.count_pos_iff.2 hz
  have hout := (decChunk_false_counts h).out
  omega

/-- Settles O45: the three round trips are one, and the last clause is a matter of lengths. -/
theorem streamRoundTrip : Obligations.StreamRoundTrip := fun l =>
  ⟨decChunk_encChunk id l, decChunk_encChunk id l, decChunk_encChunk (fun _ => rfl) l, chZ_notMem_encChunk_false l,
    fun hz _ hc heq => (decChunk_false_length_lt hz hc).ne (congrArg _ heq)⟩

end Sys2Proof.Machine
end

section
/-! PROOFS. The bit-to-ASCII transform (spec 42_bit_ascii.md R145 to R151): a byte's characters and a character list's
byte bit by bit, the lists they expand and pack, and the four commands (O46 to O49). -/

namespace Sys2Proof.Machine

/-! ### One byte -/

/-- The character of a bit (R145). -/
def bitChar (b : Bool) : Byte := if b then chOne else chZero

theorem bitChar_eq_ofNat (b : Bool) : bitChar b = BitVec.ofNat 8 (0x30 + b.toNat) := by cases b <;> rfl

/-- Bit 0 tells the two characters apart (R146). -/
@[simp] theorem bitChar_getLsbD_zero (b : Bool) : (bitChar b).getLsbD 0 = b := by cases b <;> rfl

@[simp] theorem b2a_length (b : Byte) : (b2a b).length = 8 := rfl

theorem b2a_getElem? (b : Byte) {i : Nat} (hi : i < 8) : (b2a b)[i]? = some (bitChar (b.getLsbD (7 - i))) := by
  simp [b2a, bitChar, hi]

theorem b2a_getD (b : Byte) {i : Nat} (hi : i < 8) : (b2a b).getD i 0 = bitChar (b.getLsbD (7 - i)) := by
  rw [List.getD_eq_getElem?_getD, b2a_getElem? b hi, Option.getD_some]

/-- A byte's bit 0 moved to bit `k`, as a number (R146). -/
theorem weightedBit_eq_ofNat (b : Byte) (k : Nat) : (b &&& 1#8) <<< k = BitVec.ofNat 8 (b.toNat % 2 * 2 ^ k) :=
  BitVec.eq_of_toNat_eq (by simp [Nat.shiftLeft_eq, Nat.and_one_is_mod])

/-- The eight bits weigh in at different powers of 2, so their sum does not carry out of the byte (R146). -/
theorem a2b_toNat (l : List Byte) : (a2b l).toNat =
    (l.getD 0 0).toNat % 2 * 128 + (l.getD 1 0).toNat % 2 * 64 + (l.getD 2 0).toNat % 2 * 32 +
    (l.getD 3 0).toNat % 2 * 16 + (l.getD 4 0).toNat % 2 * 8 + (l.getD 5 0).toNat % 2 * 4 +
    (l.getD 6 0).toNat % 2 * 2 + (l.getD 7 0).toNat % 2 := by
  have hrange : List.range 8 = [0, 1, 2, 3, 4, 5, 6, 7] := rfl
  simp only [a2b, hrange, List.map_cons, List.map_nil, List.sum_cons, List.sum_nil, weightedBit_eq_ofNat,
    ← BitVec.ofNat_add, add_zero]
  rw [BitVec.toNat_ofNat, Nat.mod_eq_of_lt (by omega)]
  omega

theorem a2b_getLsbD (l : List Byte) {i : Nat} (hi : i < 8) : (a2b l).getLsbD (7 - i) = (l.getD i 0).getLsbD 0 := by
  rw [BitVec.getLsbD, BitVec.getLsbD, a2b_toNat, Nat.testBit_eq_decide_div_mod_eq, Nat.testBit_eq_decide_div_mod_eq,
    decide_eq_decide]
  interval_cases i <;> omega

/-- The last clause of R146. -/
@[simp] theorem a2b_b2a (b : Byte) : a2b (b2a b) = b := by
  refine BitVec.eq_of_getLsbD_eq fun k hk => ?_
  obtain ⟨i, hi, rfl⟩ : ∃ i, i < 8 ∧ k = 7 - i := ⟨7 - k, by omega, by omega⟩
  rw [a2b_getLsbD _ hi, b2a_getD b hi, bitChar_getLsbD_zero]

/-! ### Lists of bytes -/

@[simp] theorem bitsOfBytes_out_length (l : List Byte) : (bitsOfBytes l).out.length = 8 * l.length := by
  simp [bitsOfBytes, Nat.mul_comm]

theorem bitsOfBytes_out_cons (b : Byte) (l : List Byte) : (bitsOfBytes (b :: l)).out = b2a b ++ (bitsOfBytes l).out :=
  List.flatMap_cons

/-- Character 8*j + i of the expansion is character i of byte j (R150). -/
theorem bitsOfBytes_out_getElem? (l : List Byte) {j i : Nat} (hj : j < l.length) (hi : i < 8) :
    (bitsOfBytes l).out[8 * j + i]? = some (bitChar ((l.getD j 0).getLsbD (7 - i))) := by
  induction l generalizing j with
  | nil => simp at hj
  | cons b bs ih =>
    rw [bitsOfBytes_out_cons]
    cases j with
    | zero =>
      rw [Nat.mul_zero, Nat.zero_add, List.getElem?_append_left hi, b2a_getElem? b hi, List.getD_cons_zero]
    | succ j =>
      have hk : 8 * (j + 1) + i - (b2a b).length = 8 * j + i := by
        rw [b2a_length]
        omega
      rw [List.getElem?_append_right (by rw [b2a_length]; omega), hk, ih (Nat.lt_of_succ_lt_succ hj),
        List.getD_cons_succ]

@[simp] theorem bytesOfBits_out_length (l : List Byte) : (bytesOfBits l).out.length = l.length / 8 := by
  simp [bytesOfBits]

theorem bytesOfBits_out_getElem? (l : List Byte) {j : Nat} (hj : j < l.length / 8) :
    (bytesOfBits l).out[j]? = some (a2b ((l.drop (8 * j)).take 8)) := by
  simp [bytesOfBits, hj]

/-- Bit by bit, group j of the list as a byte (R151). -/
theorem a2b_group_getLsbD (l : List Byte) (j : Nat) {i : Nat} (hi : i < 8) :
    (a2b ((l.drop (8 * j)).take 8)).getLsbD (7 - i) = (l.getD (8 * j + i) 0).getLsbD 0 := by
  rw [a2b_getLsbD _ hi]
  simp [hi]

/-- A leading group of eight gives its byte, and the rest is packed as if it stood alone (R151). -/
theorem bytesOfBits_append {g : List Byte} (hg : g.length = 8) (l : List Byte) :
    bytesOfBits (g ++ l) = { out := a2b g :: (bytesOfBits l).out, aux := (bytesOfBits l).aux } := by
  have hdrop (j : Nat) : (g ++ l).drop (8 * (j + 1)) = l.drop (8 * j) := by
    rw [List.drop_append, List.drop_of_length_le (by omega), List.nil_append, hg, Nat.mul_succ, Nat.add_sub_cancel]
  simp only [bytesOfBits, List.length_append, hg, Nat.add_div_left l.length (show 0 < 8 by decide), Nat.add_mod_left,
    List.range_succ_eq_map, List.map_cons, List.map_map, Function.comp_def, hdrop]
  rw [Nat.mul_zero, List.drop_zero, List.take_left' hg]

/-! ### The commands' words, operands and frame -/

/-- With HAS_BITS = 1 every command exists (R5). -/
theorem decode_encode_of_hasBits {p : Params} (h : p.hasBits = true) (i : Instr) : decode p (encode i) = .ok i :=
  decode_encode (by simp [Instr.wf, h])

/-- With HAS_BITS = 0 the words of the optional group are illegal (R90, R93). -/
theorem illegalWord_of_needsBits {p : Params} (h : p.hasBits = false) {i : Instr} (hi : i.needsBits = true) :
    IllegalWord p (encode i) :=
  (illegalWord_encode_iff p i).2 (by simp [Instr.wf, h, hi])

theorem State.xBytes_getD (s : State) {n i : Nat} (hi : i < n) : (s.xBytes n).getD i 0 = s.xByte i := by
  simp [State.xBytes, hi]

/-- A transfer that keeps COL has kept all that is both operand and result (R20). -/
theorem TransferDone.sameData {s t : State} {c : Chunk} (h : TransferDone s t c) (hcol : t.col = s.col) : SameData s t :=
  ⟨h.data, h.x0, h.x1, hcol⟩

/-! ### The obligations -/

/-- Settles O46: both functions bit by bit, for lists of any length, and so the inverse. -/
theorem bitTransformFunctions : Obligations.BitTransformFunctions :=
  ⟨fun b => ⟨b2a_length b, fun _ hi => (b2a_getElem? b hi).trans (congrArg some (bitChar_eq_ofNat _))⟩,
    fun l _ _ hi => a2b_getLsbD l hi, a2b_b2a⟩

/-- Settles O47: each command is the register form of its transform, whose eight bits lie in DATA[7:0]. -/
theorem bitRegisterCommands : Obligations.BitRegisterCommands := by
  refine ⟨fun _ h => ⟨decode_encode_of_hasBits h .benc, decode_encode_of_hasBits h .bdec⟩,
    fun _ h => ⟨illegalWord_of_needsBits (i := .benc) h rfl, illegalWord_of_needsBits (i := .bdec) h rfl⟩,
    fun s => ⟨⟨_, rfl, s.setX_succeeded _ (by decide), fun i hi => ?_, rfl, rfl, fun _ => rfl⟩,
      ⟨_, rfl, s.registerForm_succeeded _ s.x0 s.x1 (by decide) (by decide), fun i hi => ?_, ?_, rfl, rfl, rfl,
        fun _ => rfl⟩⟩⟩
  · have hbit : (s.data.setWidth 8).getLsbD (7 - i) = s.data.getLsbD (7 - i) := by
      rw [BitVec.getLsbD_setWidth, decide_eq_true (by omega), Bool.true_and]
    rw [State.complete_xByte, s.setX_xByte _ hi, b2a_getD _ hi, hbit]
    rfl
  · show ((a2b (s.xBytes 8)).setWidth 32).getLsbD (7 - i) = _
    rw [BitVec.getLsbD_setWidth, decide_eq_true (by omega), Bool.true_and, a2b_getLsbD _ hi, s.xBytes_getD hi]
  · show ((a2b (s.xBytes 8)).setWidth 32).toNat < 256
    rw [BitVec.toNat_setWidth]
    exact (Nat.mod_le _ _).trans_lt (a2b (s.xBytes 8)).isLt

/-- Settles O48: each command is its transfer, whose output is known character by character, or bit by bit. -/
theorem bitBufferCommandsComplete : Obligations.BitBufferCommandsComplete := by
  refine ⟨fun _ h => ⟨decode_encode_of_hasBits h .bencb, decode_encode_of_hasBits h .bdecb⟩,
    fun _ h => ⟨illegalWord_of_needsBits (i := .bencb) h rfl, illegalWord_of_needsBits (i := .bdecb) h rfl⟩,
    fun s hw => ⟨fun hranges => ?_, fun hranges => ?_⟩⟩
  · have hlen : (bitsOfBytes s.input).out.length = 8 * s.len.toNat := by simp
    rw [← hlen] at hranges ⊢
    obtain ⟨t, ht, hdone, hcol⟩ :=
      exec_transfer_done (i := .bencb) (c := bitsOfBytes s.input) hw (by decide) rfl rfl (Nat.two_pow_pos 32) hranges
    refine ⟨t, ht, hdone.succeeded, fun j i hj hi => ?_, hdone.wrote.others, hdone.sameData hcol⟩
    exact (hdone.wrote.holds _ (by omega)).trans (bitsOfBytes_out_getElem? _ (by simpa using hj) hi)
  · have hlen : (bytesOfBits s.input).out.length = s.len.toNat / 8 := by simp
    have haux : (bytesOfBits s.input).aux = s.len.toNat % 8 := by simp [bytesOfBits]
    rw [← hlen] at hranges ⊢
    rw [← haux]
    obtain ⟨t, ht, hdone, hcol⟩ :=
      exec_transfer_done (i := .bdecb) (c := bytesOfBits s.input) hw (by decide) rfl rfl (by omega) hranges
    refine ⟨t, ht, hdone.succeeded, fun j hj => ?_, hdone.wrote.others, hdone.sameData hcol⟩
    have hbyte := (hdone.wrote.holds j hj).trans (bytesOfBits_out_getElem? s.input (by simpa using hj))
    exact ⟨_, hbyte, fun i hi => a2b_group_getLsbD s.input j hi⟩

/-- Settles O49, byte by byte: the expansion of a byte is one complete group. -/
theorem bitBufferRoundTrip : Obligations.BitBufferRoundTrip := by
  intro l
  induction l with
  | nil => rfl
  | cons b bs ih => rw [bitsOfBytes_out_cons, bytesOfBits_append (b2a_length b), ih, a2b_b2a]

end Sys2Proof.Machine
end

section
/-! PROOFS. The in-place filters (spec 43_filter.md R165 to R170): each keeps what its predicate keeps, with its frame, and
keeps all of it when run again on what it kept (O50, O51). -/

namespace Sys2Proof.Machine

/-! ### What BUF holds -/

/-- MemRead gives the bytes that stand in its range, and no free value. -/
theorem BufHolds.memRead_eq {s : State} {a : Nat} {l : List Byte} (h : BufHolds s a l) : s.memRead a l.length = l := by
  refine List.ext_getElem? fun i => ?_
  rcases Nat.lt_or_ge i l.length with hi | hi
  · rw [State.memRead_getElem? s hi ((h i hi).trans (List.getElem?_eq_getElem hi)), List.getElem?_eq_getElem hi]
  · rw [List.getElem?_eq_none hi, List.getElem?_eq_none (by rwa [State.length_memRead])]

/-- Writing bytes over themselves changes nothing. -/
theorem WroteAt.sameBuf {s t : State} {a : Nat} {l : List Byte} (h : WroteAt s t a l) (hs : BufHolds s a l) :
    SameBuf s t := by
  intro x
  by_cases hx : a ≤ x ∧ x < a + l.length
  · obtain ⟨i, rfl⟩ := Nat.exists_eq_add_of_le hx.1
    have hi : i < l.length := by omega
    rw [h.holds i hi, hs i hi]
  · exact h.others x (by omega)

/-! ### The commands -/

/-- The bytes of the input that a filter's predicate keeps, in order (R166). -/
def State.kept (s : State) (keep : Nat → Bool) : List Byte := s.input.filter fun b => keep b.toNat

theorem State.kept_length_le (s : State) (keep : Nat → Bool) : (s.kept keep).length ≤ s.len.toNat :=
  (List.length_filter_le _ _).trans_eq s.length_input

/-- A filter command whose source range lies in BUF succeeds: it writes at SRC what its predicate keeps (R166, R167). -/
theorem exec_filter_done {s : State} {i : Instr} {keep : Nat → Bool} (hf : filterOf i = some keep)
    (hw : s.params.wf = true) (hsrc : s.src.toNat + s.len.toNat ≤ s.params.bufBytes) :
    ∃ t, exec i s = .next t ∧ Succeeded s t (s.kept keep).length (s.len.toNat - (s.kept keep).length) ∧
      WroteAt s t s.src.toNat (s.kept keep) ∧ SameData s t := by
  refine ⟨_, exec_of_filterOf s hf, ?_⟩
  rcases s.filterInPlace_cases fun b => keep b.toNat with ⟨hbad, -⟩ | ⟨-, e⟩
  · omega
  · rw [e]
    exact s.filtered_done _ _ hw (s.kept_length_le keep) hsrc

/-- A filter command whose source range leaves BUF fails with BOUNDS and ERRINFO 0 (R200). -/
theorem exec_filter_failed {s : State} {i : Instr} {keep : Nat → Bool} (hf : filterOf i = some keep)
    (hsrc : s.params.bufBytes < s.src.toNat + s.len.toNat) : ∃ t, exec i s = .next t ∧ FailedWith s t .bounds 0 := by
  refine ⟨_, exec_of_filterOf s hf, ?_⟩
  rcases s.filterInPlace_cases fun b => keep b.toNat with ⟨-, e⟩ | ⟨hok, -⟩
  · rw [e]
    exact (s.raiseErr_failed 0 _ _).1
  · omega

/-- The state in which a filter command runs again on what it kept: LEN is the count OLEN gave (R170). -/
def State.onKept (t : State) : State := { t with len := t.olen }

/-- After a command that wrote the bytes `l` at SRC and counted them in OLEN, those bytes are the next input. -/
theorem State.onKept_input {s t : State} {l : List Byte} {aux : Nat} (hdone : Succeeded s t l.length aux)
    (hwrote : WroteAt s t s.src.toNat l) : t.onKept.input = l := by
  show t.memRead t.src.toNat t.olen.toNat = l
  rw [hdone.olen, hdone.control.src]
  exact hwrote.holds.memRead_eq

/-! ### The obligations -/

/-- Settles O50: a filter command ends by its source range alone, in one of two ways. -/
theorem filterCommands : Obligations.FilterCommands :=
  ⟨fun _ => ⟨decode_encode (i := .filt85) rfl, decode_encode (i := .filt85z) rfl, decode_encode (i := .filtbin) rfl⟩,
    fun _ _ _ hf hw => ⟨exec_filter_done hf hw, exec_filter_failed hf⟩⟩

/-- Settles O51: the second run's input is what the first run kept, its predicate keeps all of it, and so it writes those
bytes where they stand. -/
theorem filtersAreIdempotent : Obligations.FiltersAreIdempotent := by
  intro s i keep hf hw hsrc
  obtain ⟨t, ht, hdone, hwrote, -⟩ := exec_filter_done hf hw hsrc
  have hparams : t.onKept.params = s.params := hdone.control.params
  have hsrc' : t.onKept.src = s.src := hdone.control.src
  have hlen' : t.onKept.len.toNat = (s.kept keep).length := hdone.olen
  have hkept : t.onKept.kept keep = s.kept keep := by
    rw [State.kept, State.onKept_input hdone hwrote, State.kept, List.filter_filter]
    simp only [Bool.and_self]
  have hrange : t.onKept.src.toNat + t.onKept.len.toNat ≤ t.onKept.params.bufBytes := by
    have := s.kept_length_le keep
    rw [hsrc', hlen', hparams]
    omega
  obtain ⟨u, hu, hdone', hwrote', -⟩ := exec_filter_done hf (hparams ▸ hw) hrange
  rw [hkept, hlen', Nat.sub_self] at hdone'
  rw [hkept, hsrc'] at hwrote'
  exact ⟨t, u, ht, hu, hdone.ended.err, hdone'.ended.err, BitVec.eq_of_toNat_eq (hdone'.olen.trans hdone.olen.symm),
    BitVec.eq_of_toNat_eq hdone'.aux, hwrote'.sameBuf hwrote.holds⟩

end Sys2Proof.Machine
end

section
/-! PROOFS. The column-wrapping copy and the no-operation command (spec 44_stream_support.md R180 to R183): wrapping along
a concatenation, the counts it derives, where its bytes and newlines stand, and both commands (O52 to O55). -/

namespace Sys2Proof.Machine

/-! ### R180's loop, byte by byte and along a concatenation -/

theorem wrapText_zero (l : List Byte) (c : Nat) : wrapText l 0 c = (l, c, 0) := rfl

@[simp] theorem wrapText_nil (w c : Nat) : wrapText [] w c = ([], c, 0) := ite_self _

/-- The byte that fills the line is followed by a newline, and the next stands at column 0. -/
theorem wrapText_cons_filling {w c : Nat} (h : c + 1 = w) (b : Byte) (l : List Byte) :
    wrapText (b :: l) w c =
      (b :: chLF :: (wrapText l w 0).1, (wrapText l w 0).2.1, (wrapText l w 0).2.2 + 1) := by
  have hw : w ≠ 0 := by omega
  simp [wrapText, wrapBytes, hw, h]

/-- Any other byte moves the column on. -/
theorem wrapText_cons_inside {w c : Nat} (hw : w ≠ 0) (h : c + 1 ≠ w) (b : Byte) (l : List Byte) :
    wrapText (b :: l) w c = (b :: (wrapText l w (c + 1)).1, (wrapText l w (c + 1)).2) := by
  simp [wrapText, wrapBytes, hw, h]

/-- Wrapping a concatenation is wrapping its first part, and then the second from the column the first has reached. -/
theorem wrapText_append (a l : List Byte) (w c : Nat) :
    wrapText (a ++ l) w c =
      ((wrapText a w c).1 ++ (wrapText l w (wrapText a w c).2.1).1, (wrapText l w (wrapText a w c).2.1).2.1,
        (wrapText a w c).2.2 + (wrapText l w (wrapText a w c).2.1).2.2) := by
  rcases eq_or_ne w 0 with rfl | hw
  · rfl
  induction a generalizing c with
  | nil => simp
  | cons b a ih =>
    by_cases h : c + 1 = w
    · simp [wrapText_cons_filling h, ih, Nat.add_right_comm]
    · simp [wrapText_cons_inside hw h, ih]

/-- Bytes that do not fill the line are copied. -/
theorem wrapText_within_line {w c : Nat} {l : List Byte} (h : c + l.length < w) :
    wrapText l w c = (l, c + l.length, 0) := by
  induction l generalizing c with
  | nil => simp
  | cons b l ih =>
    rw [List.length_cons] at h
    rw [wrapText_cons_inside (by omega) (by omega), ih (by omega), List.length_cons, Nat.add_right_comm, Nat.add_assoc]

/-- Bytes that just fill the line are copied, with a newline behind them. -/
theorem wrapText_filling_line {w c : Nat} {l : List Byte} (hl : l ≠ []) (h : c + l.length = w) :
    wrapText l w c = (l ++ [chLF], 0, 1) := by
  have hpos := List.length_pos_of_ne_nil hl
  have hinit : c + l.dropLast.length + 1 = w := by rw [List.length_dropLast]; omega
  rw [← List.dropLast_append_getLast hl, wrapText_append, wrapText_within_line (by omega),
    wrapText_cons_filling hinit]
  simp

/-! ### The counts R180 derives -/

theorem wrapText_column_and_newlines {w c : Nat} (h : c < w) (l : List Byte) :
    (wrapText l w c).2.1 = (c + l.length) % w ∧ (wrapText l w c).2.2 = (c + l.length) / w := by
  induction l generalizing c with
  | nil => simp [Nat.mod_eq_of_lt h, Nat.div_eq_of_lt h]
  | cons b l ih =>
    by_cases hc : c + 1 = w
    · have hlen : c + (b :: l).length = 0 + l.length + w := by rw [List.length_cons]; omega
      obtain ⟨hcol, hnl⟩ := ih (c := 0) (by omega)
      rw [wrapText_cons_filling hc, hcol, hnl, hlen, Nat.add_mod_right, Nat.add_div_right _ (by omega)]
      exact ⟨rfl, rfl⟩
    · have hlen : c + (b :: l).length = c + 1 + l.length := by rw [List.length_cons]; omega
      rw [wrapText_cons_inside (by omega) hc, hlen]
      exact ih (by omega)

/-- The output is the input and its newlines. -/
theorem wrapText_length (l : List Byte) (w c : Nat) :
    (wrapText l w c).1.length = l.length + (wrapText l w c).2.2 := by
  rcases eq_or_ne w 0 with rfl | hw
  · rfl
  induction l generalizing c with
  | nil => simp
  | cons b l ih =>
    by_cases h : c + 1 = w
    · simp only [wrapText_cons_filling h, List.length_cons, ih]
      omega
    · simp only [wrapText_cons_inside hw h, List.length_cons, ih]
      omega

theorem wrapText_length_eq {w c : Nat} (h : c < w) (l : List Byte) :
    (wrapText l w c).1.length = l.length + (c + l.length) / w := by
  rw [wrapText_length, (wrapText_column_and_newlines h l).2]

/-- A valid column leads to a valid one, so that a stream's next call finds it so (R182, R203). -/
theorem wrapText_column_valid {w c : Nat} (h : w = 0 ∨ c < w) (l : List Byte) :
    w = 0 ∨ (wrapText l w c).2.1 < w := by
  refine h.imp_right fun hc => ?_
  rw [(wrapText_column_and_newlines hc l).1]
  exact Nat.mod_lt _ (by omega)

/-! ### Where the bytes and the newlines stand -/

/-- The output at the byte of offset `i`: the wrapped bytes before it, the byte, a newline if it fills its line, and more. -/
theorem wrapText_out_at_byte {w c i : Nat} {l : List Byte} (h : c < w) (hi : i < l.length) :
    ∃ more, (wrapText l w c).1 = (wrapText (l.take i) w c).1 ++ l[i] ::
      (if (c + i) % w + 1 = w then chLF :: more else more) := by
  have hcol := (wrapText_column_and_newlines h (l.take i)).1
  rw [List.length_take_of_le hi.le] at hcol
  have hsplit : l = l.take i ++ l[i] :: l.drop (i + 1) := by simp
  rw [congrArg (wrapText · w c) hsplit, wrapText_append, hcol]
  split
  case isTrue hfill => exact ⟨_, by rw [wrapText_cons_filling hfill]⟩
  case isFalse hin => exact ⟨_, by rw [wrapText_cons_inside (by omega) hin]⟩

theorem wrapText_take_length {w c i : Nat} {l : List Byte} (h : c < w) (hi : i < l.length) :
    (wrapText (l.take i) w c).1.length = i + (c + i) / w := by
  rw [wrapText_length_eq h, List.length_take_of_le hi.le]

theorem wrapText_getElem?_byte {w c i : Nat} {l : List Byte} (h : c < w) (hi : i < l.length) :
    (wrapText l w c).1[i + (c + i) / w]? = l[i]? := by
  obtain ⟨more, e⟩ := wrapText_out_at_byte h hi
  rw [e, ← wrapText_take_length h hi, List.getElem?_append_right le_rfl, Nat.sub_self, List.getElem?_cons_zero,
    List.getElem?_eq_getElem hi]

/-- A byte that fills its line has a newline behind it. -/
theorem wrapText_getElem?_after_filling {w c i : Nat} {l : List Byte} (h : c < w) (hi : i < l.length)
    (hfill : (c + i) % w + 1 = w) : (wrapText l w c).1[i + (c + i) / w + 1]? = some chLF := by
  obtain ⟨more, e⟩ := wrapText_out_at_byte h hi
  rw [e, if_pos hfill, ← wrapText_take_length h hi, List.getElem?_append_right (Nat.le_add_right _ 1), Nat.add_sub_cancel_left,
    List.getElem?_cons_succ, List.getElem?_cons_zero]

/-- The k-th newline stands behind the byte that brings the count of columns to (k + 1) * w. -/
theorem wrapText_getElem?_newline {w c k : Nat} {l : List Byte} (h : c < w) (hk : k < (wrapText l w c).2.2) :
    (wrapText l w c).1[(k + 1) * w - c + k]? = some chLF := by
  rw [(wrapText_column_and_newlines h l).2] at hk
  have hend : (k + 1) * w ≤ c + l.length := (Nat.le_div_iff_mul_le (by omega)).1 hk
  have hline : (k + 1) * w = w * k + w := by ring
  obtain ⟨i, hi⟩ : ∃ i, c + i = w * k + (w - 1) := ⟨w * k + (w - 1) - c, by omega⟩
  have hmod : (c + i) % w = w - 1 := by rw [hi, Nat.mul_add_mod, Nat.mod_eq_of_lt (by omega)]
  have hdiv : (c + i) / w = k := by rw [hi, Nat.mul_add_div (by omega), Nat.div_eq_of_lt (by omega), Nat.add_zero]
  have hnl := wrapText_getElem?_after_filling (l := l) h (i := i) (by omega) (by omega)
  have hpos : (k + 1) * w - c + k = i + (c + i) / w + 1 := by omega
  rwa [hpos]

/-- No `w + 1` bytes of the output in a row are without a newline: the newline `q = (k + c) / (w + 1)` stands among those
from `k` on, and there are more than `q`. -/
theorem wrapText_newline_within {w c k : Nat} {l : List Byte} (h : c < w) (hk : k + w < (wrapText l w c).1.length) :
    ∃ j, j ≤ w ∧ (wrapText l w c).1[k + j]? = some chLF := by
  obtain ⟨q, m, hm, hq⟩ : ∃ q m, m < w + 1 ∧ k + c = (w + 1) * q + m :=
    ⟨_, _, Nat.mod_lt _ w.add_one_pos, (Nat.div_add_mod _ _).symm⟩
  have hline : (w + 1) * q + w = (q + 1) * w + q := by ring
  have hfirst : w ≤ (q + 1) * w := Nat.le_mul_of_pos_left w q.add_one_pos
  have hcount : q < (wrapText l w c).2.2 := by
    by_contra hle
    rw [wrapText_length] at hk
    have hcols := Nat.lt_mul_div_succ (c + l.length) (show 0 < w by omega)
    rw [← (wrapText_column_and_newlines h l).2, Nat.mul_comm] at hcols
    have hmono := Nat.mul_le_mul_right w (Nat.add_le_add_right (Nat.le_of_not_lt hle) 1)
    omega
  refine ⟨(q + 1) * w - c + q - k, by omega, ?_⟩
  have hpos : k + ((q + 1) * w - c + q - k) = (q + 1) * w - c + q := by omega
  rw [hpos]
  exact wrapText_getElem?_newline h hcount

/-- The output and the input differ in newlines only. -/
theorem wrapText_filter_newlines (l : List Byte) (w c : Nat) :
    (wrapText l w c).1.filter (· != chLF) = l.filter (· != chLF) := by
  rcases eq_or_ne w 0 with rfl | hw
  · rfl
  induction l generalizing c with
  | nil => simp
  | cons b l ih =>
    by_cases h : c + 1 = w
    · simp [wrapText_cons_filling h, List.filter_cons, ih]
    · simp [wrapText_cons_inside hw h, List.filter_cons, ih]

/-! ### Streams -/

/-- Chunk by chunk, the column carried on, is the whole at once (R182). -/
theorem wrapStream_eq_wrapText_flatten (w c : Nat) (ls : List (List Byte)) :
    wrapStream w c ls = wrapText ls.flatten w c := by
  induction ls generalizing c with
  | nil => rw [List.flatten_nil, wrapText_nil]; rfl
  | cons l ls ih => rw [List.flatten_cons, wrapText_append, ← ih, wrapStream]

/-! ### The command -/

/-- The final column fits where both operands do. -/
theorem wrapText_column_lt {w c n : Nat} (hw : w < n) (hc : c < n) (h : w = 0 ∨ c < w) (l : List Byte) :
    (wrapText l w c).2.1 < n := by
  rcases wrapText_column_valid h l with rfl | hcol
  · exact hc
  · exact hcol.trans hw

/-! ### The obligations -/

/-- Settles O52: the first run of bytes either stays within its line or just fills it, and the rest follows by
concatenation. -/
theorem wrapFunction : Obligations.WrapFunction := by
  refine ⟨wrapText_zero, fun l W C hC => ⟨?_, fun hl => ?_, ?_⟩⟩
  · rintro rfl
    exact wrapText_nil W C
  · have hpos := List.length_pos_of_ne_nil hl
    intro n rest
    have hn : (l.take n).length = n := List.length_take_of_le (min_le_right _ _)
    have hsplit := wrapText_append (l.take n) (l.drop n) W C
    rw [List.take_append_drop] at hsplit
    by_cases hfull : C + n = W
    · have hne : l.take n ≠ [] := List.ne_nil_of_length_pos (by omega)
      rw [wrapText_filling_line hne (by omega)] at hsplit
      simp only [rest, if_pos hfull, hsplit, List.append_assoc, Nat.add_comm 1]
      rfl
    · rw [wrapText_within_line (l := l.take n) (by omega), hn] at hsplit
      simp only [rest, if_neg hfull, hsplit, Nat.zero_add]
  · obtain ⟨hcol, hnl⟩ := wrapText_column_and_newlines hC l
    exact ⟨hnl, hcol, wrapText_length_eq hC l⟩

/-- Settles O53: with valid operands WRAP is its transfer, and what it reports fits the registers: the column does not
exceed the operands, and the newlines are no more than the bytes written. -/
theorem wrapCommandCompletes : Obligations.WrapCommandCompletes := by
  refine ⟨fun _ => decode_encode (i := .wrap) rfl, ?_⟩
  intro s hw hp r hranges
  have hvalid : s.wrap.toNat = 0 ∨ s.col.toNat < s.wrap.toNat := by
    unfold WrapParamBad at hp
    omega
  have hcol : r.2.1 < 2 ^ 32 := wrapText_column_lt s.wrap.isLt s.col.isLt hvalid _
  have haux : r.2.2 < 2 ^ 32 := by
    have hlen : r.1.length = s.input.length + r.2.2 := wrapText_length _ _ _
    have hbuf := (Params.bufBytes_bounds hw).2
    have hdst := hranges.2.1
    omega
  have hdone := s.delivered_done (wrapChunk s.wrap.toNat s.col.toNat s.input) s.len.toNat hw hranges.2.1 haux
  have hexec := (exec_of_transferOf (i := .wrap) rfl fun h => hp h.2).trans
    (congrArg _ (State.transcode_of_ok rfl hranges))
  exact ⟨_, hexec, hdone.succeeded, hdone.wrote, countWord_toNat hcol, hdone.data, hdone.x0, hdone.x1⟩

/-- Settles O54: streams by concatenation; lines, bytes and newlines by where they stand. -/
theorem wrappingIsChunkIndependent : Obligations.WrappingIsChunkIndependent := by
  refine ⟨fun ls W C h => ⟨wrapStream_eq_wrapText_flatten W C ls, ?_⟩, fun l W C hC =>
    ⟨fun _ => wrapText_getElem?_byte hC, fun _ => wrapText_getElem?_newline hC, fun _ => wrapText_newline_within hC,
      fun hl => (wrapText_filter_newlines l W C).trans (List.filter_eq_self.2 fun b hb => ?_)⟩⟩
  · rw [wrapStream_eq_wrapText_flatten]
    exact wrapText_column_valid h _
  · exact bne_iff_ne.2 fun h : b = 0x0A => hl (h ▸ hb)

/-- Settles O55: NOP is the bare completion. -/
theorem noOperationOnlyCompletes : Obligations.NoOperationOnlyCompletes :=
  ⟨fun _ => decode_encode (i := .nop) rfl, fun s =>
    ⟨s.complete, rfl, ⟨⟨rfl, rfl, rfl, rfl⟩, ⟨rfl, rfl, rfl, rfl, rfl, rfl, rfl, rfl, rfl, rfl, rfl⟩, rfl, rfl⟩,
      ⟨rfl, rfl, rfl, rfl⟩, fun _ => rfl, rfl, (exec_completed (i := .nop) rfl).irq⟩⟩

end Sys2Proof.Machine
end

section
/-! PROOFS. The first misplaced 'z' as DECZ reports it (spec 41_buffer_codec.md R126; 60_exceptions.md R202; O42): the
decoder fails at it, and the transfer turns that failure into the ZPOS completion. -/

namespace Sys2Proof.Machine

/-- The decoder fails at the first misplaced 'z', when there is one (R202). -/
theorem decBytes_error_of_misplacedAfter {i j : Nat} {g l : List Byte} (hg : g.length < 5)
    (h : MisplacedAfter g.length l j) : decBytes true i g l = .error (i + j) := by
  induction l generalizing i j g with
  | nil => cases h.1
  | cons b rest ih =>
    cases j with
    | zero =>
      obtain ⟨rfl, hpending⟩ := misplacedAfter_cons_zero.1 h
      exact decBytes_misplaced (by rintro rfl; exact hpending rfl) i rest
    | succ j =>
      obtain ⟨hboundary, hrest⟩ := misplacedAfter_cons_succ.1 h
      have later : ∀ {g'}, g'.length < 5 → (g.length + if b = chZ then 0 else 1) % 5 = g'.length % 5 →
          decBytes true (i + 1) g' rest = .error (i + (j + 1)) := by
        intro g' hg' hmod
        rw [ih hg' ((misplacedAfter_mod hmod rest j).1 hrest), Nat.add_assoc, Nat.add_comm 1]
      rcases decBytes_cons_cases true g b with ⟨-, rfl, rfl, e⟩ | ⟨-, rfl, hne, -⟩ | ⟨hb, h5, e⟩ | ⟨hb, h5, e⟩
      · exact (e i rest).trans (emitBefore_eq_error_iff.2 (later (by decide) rfl))
      · have hlen := hboundary rfl
        rw [Nat.mod_eq_of_lt hg] at hlen
        exact absurd (List.length_eq_zero_iff.1 hlen) hne
      · exact (e i rest).trans (emitBefore_eq_error_iff.2 (later (by decide) (by simp [hb rfl, h5])))
      · exact (e i rest).trans (later (by simp; omega) (by simp [hb rfl]))

theorem decChunk_error_iff_firstMisplacedZ {l : List Byte} {i : Nat} :
    decChunk l true = .error i ↔ FirstMisplacedZ l i := by
  refine ⟨firstMisplacedZ_of_error, fun h => ?_⟩
  have hfail := decBytes_error_of_misplacedAfter (i := 0) (g := []) (by decide) (misplacedAfter_zero_iff.2 h)
  rwa [Nat.zero_add] at hfail

/-- A transfer whose transform fails at an offset reports it with ZPOS, when its source range lies in BUF (R202). -/
theorem State.transcode_failed_zpos {s : State} {f : List Byte → Except Nat Chunk} {k : Nat}
    (hsrc : s.src.toNat + s.len.toNat ≤ s.params.bufBytes) (hk : f s.input = .error k) :
    FailedWith s (s.transcode f) .zpos (countWord k) := by
  rcases s.transcode_cases f with ⟨hbad, -⟩ | ⟨-, i, hi, e⟩ | ⟨-, c, hc, -⟩
  · omega
  · cases hi.symm.trans hk
    rw [e]
    exact (s.raiseErr_failed _ _ _).2
  · cases hc.symm.trans hk

/-- Settles O42: the decoder fails exactly at the first misplaced 'z', and DECZ is the transfer that reports the failure. -/
theorem misplacedZIsReported : Obligations.MisplacedZIsReported := by
  refine ⟨fun _ _ => decChunk_error_iff_firstMisplacedZ, fun s i hsrc hz => ⟨_, rfl, ?_, ?_⟩⟩
  · exact State.transcode_failed_zpos hsrc (decChunk_error_iff_firstMisplacedZ.2 hz)
  · obtain ⟨hlt, -⟩ := hz
    rwa [s.length_input] at hlt

end Sys2Proof.Machine
end

section
/-! PROOFS. Which error a command reports (spec 60_exceptions.md R199 to R205; O56): a transfer's other three errors, each
where it comes first, and WRAP's PARAM before them. -/

namespace Sys2Proof.Machine

/-! ### The errors of a transfer -/

/-- The source range is checked before anything else is (R200, R205). -/
theorem State.transcode_failed_source {s : State} (f : List Byte → Except Nat Chunk)
    (hsrc : s.params.bufBytes < s.src.toNat + s.len.toNat) : FailedWith s (s.transcode f) .bounds 0 := by
  rcases s.transcode_cases f with ⟨-, e⟩ | ⟨hok, -⟩ | ⟨hok, -⟩
  · rw [e]
    exact (s.raiseErr_failed 0 _ _).1
  · omega
  · omega

/-- A transfer whose source range lies in BUF and whose transform gives a chunk goes on to deliver it. -/
theorem State.transcode_eq_deliver {s : State} {f : List Byte → Except Nat Chunk} {c : Chunk}
    (hsrc : s.src.toNat + s.len.toNat ≤ s.params.bufBytes) (hc : f s.input = .ok c) :
    s.transcode f = (s.draw s.len.toNat).deliver c := by
  rcases s.transcode_cases f with ⟨hbad, -⟩ | ⟨-, i, hi, -⟩ | ⟨-, d, hd, e⟩
  · omega
  · cases hi.symm.trans hc
  · cases hd.symm.trans hc
    exact e

/-- The destination range is checked before the overlap (R200, R205). -/
theorem State.deliver_failed_destination {s : State} {c : Chunk} (n : Nat)
    (hdst : s.params.bufBytes < s.dst.toNat + c.out.length) : FailedWith s ((s.draw n).deliver c) .bounds 1 := by
  rcases (s.draw n).deliver_cases c with ⟨-, e⟩ | ⟨hok, -⟩ | ⟨hok, -⟩
  · rw [e]
    exact (s.raiseErr_failed _ _ _).2
  · simp only [draw_params, draw_dst] at hok
    omega
  · simp only [draw_params, draw_dst] at hok
    omega

/-- The ranges' overlap is the last error looked for (R201, R205). -/
theorem State.deliver_failed_overlap {s : State} {c : Chunk} (n : Nat)
    (hdst : s.dst.toNat + c.out.length ≤ s.params.bufBytes)
    (hoverlap : rangesOverlap s.src.toNat s.len.toNat s.dst.toNat c.out.length = true) :
    FailedWith s ((s.draw n).deliver c) .overlap 0 := by
  rcases (s.draw n).deliver_cases c with ⟨hbad, -⟩ | ⟨-, -, e⟩ | ⟨-, hnone, -⟩
  · simp only [draw_params, draw_dst] at hbad
    omega
  · rw [e]
    exact (s.raiseErr_failed _ _ _).2
  · cases hnone.symm.trans hoverlap

/-! ### The errors of the commands -/

/-- WRAP's operands are checked before any range is (R203, R205). -/
theorem exec_wrap_of_paramBad {s : State} (h : WrapParamBad s) : exec .wrap s = .next (s.raiseErr .param 0) := if_pos h

/-- Settles O56: each error is the one its check raises, all checks before it having passed. -/
theorem errorPriority : Obligations.ErrorPriority := by
  refine ⟨fun s hillegal => ?_, fun s hparam => ⟨_, exec_wrap_of_paramBad hparam, (s.raiseErr_failed 0 _ _).1⟩,
    fun _ _ _ => exec_filter_failed,
    fun s i f hf hp => ⟨fun hsrc => ?_, fun hsrc => ⟨fun k hk => ?_, fun c hc => ?_⟩⟩⟩
  · obtain ⟨e, he⟩ := (decode_error_iff_illegalWord s.params s.cmd).2 hillegal
    exact ⟨_, State.execute_of_decodeError he, (s.raiseErr_failed 0 _ _).1⟩
  · exact ⟨_, exec_of_transferOf hf hp, State.transcode_failed_source f hsrc⟩
  · exact ⟨_, exec_of_transferOf hf hp, State.transcode_failed_zpos hsrc hk⟩
  · have hexec := (exec_of_transferOf hf hp).trans (congrArg _ (State.transcode_eq_deliver hsrc hc))
    exact ⟨fun hdst => ⟨_, hexec, State.deliver_failed_destination _ hdst⟩,
      fun hdst hoverlap => ⟨_, hexec, State.deliver_failed_overlap _ hdst ((rangesOverlap_iff _ _ _ _).2 hoverlap)⟩⟩

end Sys2Proof.Machine
end

section
/-! PROOFS. Every command and every step answers, and every completion is one of R196's and R197's (spec 60_exceptions.md
R195 to R197; O8, O9, O57). -/

namespace Sys2Proof.Machine

/-! ### Answers -/

/-- No command meets a fault or a refusal. -/
theorem exec_answers (i : Instr) (s : State) : ∃ t, exec i s = .next t := by
  rcases exec_cases i s with ⟨_, _, _, _, -, e⟩ | e | ⟨_, e⟩ | ⟨_, e⟩ | e <;> exact ⟨_, e⟩

theorem State.execute_answers (s : State) : ∃ t, s.execute = .next t := by
  rcases s.execute_cases with ⟨i, -, e⟩ | ⟨_, -, e⟩
  · obtain ⟨t, ht⟩ := exec_answers i s
    exact ⟨t, e.trans ht⟩
  · exact ⟨_, e⟩

/-! ### Precise completions -/

/-- The two ways a command can end: the success completion (R196), or an error completion, whose code is not that of
success (R197). -/
def Precise (s t : State) : Prop := EndedWith t .none 0 ∨ ∃ e info, e ≠ .none ∧ FailedWith s t e info

/-- The success completion sets STATUS and ERRINFO itself, whatever was written before it. -/
theorem State.complete_precise (s t : State) : Precise s t.complete := .inl ⟨rfl, rfl, rfl, rfl⟩

theorem FailedWith.precise {s t : State} {e : ErrCode} {info : Word} (h : FailedWith s t e info) (he : e ≠ .none) :
    Precise s t := .inr ⟨e, info, he, h⟩

theorem State.transcode_precise (s : State) (f : List Byte → Except Nat Chunk) : Precise s (s.transcode f) := by
  rcases s.transcode_cases f with ⟨-, e⟩ | ⟨-, i, -, e⟩ | ⟨-, c, -, e⟩ <;> rw [e]
  · exact (s.raiseErr_failed 0 _ _).1.precise nofun
  · exact (s.raiseErr_failed _ _ _).2.precise nofun
  · rcases (s.draw s.len.toNat).deliver_cases c with ⟨-, e⟩ | ⟨-, -, e⟩ | ⟨-, -, e⟩ <;> rw [e]
    · exact (s.raiseErr_failed _ _ _).2.precise nofun
    · exact (s.raiseErr_failed _ _ _).2.precise nofun
    · exact s.complete_precise _

theorem State.filterInPlace_precise (s : State) (keep : Byte → Bool) : Precise s (s.filterInPlace keep) := by
  rcases s.filterInPlace_cases keep with ⟨-, e⟩ | ⟨-, e⟩ <;> rw [e]
  · exact (s.raiseErr_failed 0 _ _).1.precise nofun
  · exact s.complete_precise _

/-- Every command ends in one of the two completions (R196, R197). -/
theorem exec_precise {i : Instr} {s t : State} (h : exec i s = .next t) : Precise s t := by
  rcases exec_cases i s with ⟨_, _, _, _, -, e⟩ | e | ⟨f, e⟩ | ⟨keep, e⟩ | e <;> cases e.symm.trans h
  · exact s.complete_precise _
  · exact s.complete_precise _
  · exact s.transcode_precise f
  · exact s.filterInPlace_precise keep
  · exact (s.raiseErr_failed 0 _ _).1.precise nofun

/-! ### The obligations -/

/-- Settles O8: the host's move and a reset give a state outright, and the unit's execute step answers one. -/
theorem everyStepAnswers : Obligations.EveryStepAnswers := by
  intro s
  rcases step_cases s with ⟨-, e⟩ | ⟨-, -, e⟩ | ⟨-, -, e⟩ | ⟨-, e⟩
  · exact ⟨_, e⟩
  · obtain ⟨t, ht⟩ := s.endTurn.execute_answers
    exact ⟨t, e.trans ht⟩
  · exact ⟨_, e⟩
  · exact ⟨_, e⟩

/-- Settles O9: a command answers, and what it answers is a completion. -/
theorem everyCommandCompletes : Obligations.EveryCommandCompletes := by
  intro i s
  obtain ⟨t, ht⟩ := exec_answers i s
  have hdone := exec_completed ht
  exact ⟨t, ht, hdone.busy, hdone.done⟩

/-- Settles O57: ERR tells the two completions apart. -/
theorem completionsArePrecise : Obligations.CompletionsArePrecise := by
  intro i s t h
  rcases exec_precise h with hended | ⟨e, info, he, hfailed⟩
  · exact ⟨fun _ => hended, fun herr => absurd hended.err herr⟩
  · obtain ⟨-, -, rfl, rfl⟩ := hfailed.ended
    exact ⟨fun hnone => absurd hnone he, fun _ => hfailed⟩

end Sys2Proof.Machine
end

section
/-! PROOFS. The resets, and a command's way to its execute step while none intervenes (spec 70_reset_and_hazards.md R225
to R227, R241; 10_state.md R40; O10, O15, O16). -/

namespace Sys2Proof.Machine

/-! ### The resets -/

theorem nextTurn_of_cons {s : State} {t : Turn} {rest : List Turn} (h : s.turns = t :: rest) : s.nextTurn = t := by
  simp [State.nextTurn, h]

theorem step_of_powerOnTurn {s : State} (h : s.nextTurn = .powerOn) : step s = .next s.endTurn.powerOnReset := by
  simp [step, h, State.move]

/-- A CTRL write with SRST = 1 is the soft reset, busy or not (R26). -/
theorem State.bus_of_softResetAccess (s : State) {a : Access} (h : SoftResetAccess a) : s.bus a = s.softReset := by
  obtain ⟨v, rfl, hsrst⟩ := h
  exact (s.bus_writeReg .CTRL v).trans (s.writeCtrl_of_srst hsrst)

theorem State.softReset_sameBuf_of_idle {s : State} (hidle : s.status.busy = false) : SameBuf s s.softReset := by
  intro a
  simp [hidle]

theorem State.softReset_unwritten_of_busy {s : State} (hbusy : s.status.busy = true) (a : Nat) :
    Memory.read? s.softReset.buf a = none := by
  simp [hbusy]

/-! ### The command in flight, while no reset intervenes -/

/-- Neither the schedule nor the host's script holds a reset. -/
structure State.NoResetAhead (s : State) : Prop where
  turns : Turn.powerOn ∉ s.turns
  script : ∀ a, HostAction.access a ∈ s.script → ¬ SoftResetAccess a

/-- The host's move while busy holds the command in flight and adds nothing to the script. -/
theorem State.hostMove_held {s : State} (hbusy : s.status.busy = true)
    (hscript : ∀ a, HostAction.access a ∈ s.script → ¬ SoftResetAccess a) :
    ∃ l, l ⊆ s.script ∧ CommandHeld { s with script := l } s.hostMove := by
  rcases s.hostMove_cases with ⟨-, e⟩ | ⟨a, rest, hs, e⟩ | ⟨rest, l, hs, hl, e⟩
  · exact ⟨s.script, List.Subset.refl _, e.symm ▸ .refl s⟩
  · have ha : ¬ SoftResetAccess a := hscript a (hs ▸ List.mem_cons_self)
    exact ⟨rest, hs ▸ List.subset_cons_self _ _, e ▸ State.bus_held (s := { s with script := rest }) hbusy ha⟩
  · have hread : ¬ SoftResetAccess readStatus := by
      rintro ⟨_, h, -⟩
      cases h
    refine ⟨l, ?_, e ▸ State.bus_held (s := { s with script := l }) hbusy hread⟩
    rcases hl with rfl | rfl
    · exact List.Subset.refl _
    · exact hs ▸ List.subset_cons_self _ _

/-- With no reset ahead, a host turn leaves the command in flight and uses up one turn of the schedule. -/
theorem step_holds_command {s : State} (hbusy : s.status.busy = true) (hahead : s.NoResetAhead)
    (hhost : s.nextTurn = .host) :
    ∃ t, step s = .next t ∧ t.status.busy = true ∧ t.cmd = s.cmd ∧ t.turns = s.turns.tail ∧ t.NoResetAhead := by
  obtain ⟨l, hl, _, _, _, _, hheld, e⟩ := s.endTurn.hostMove_held hbusy hahead.script
  refine ⟨s.endTurn.hostMove, step_of_hostTurn hhost, ?_⟩
  rw [e]
  exact ⟨hheld.trans hbusy, rfl, rfl, fun h => hahead.turns (List.mem_of_mem_tail h),
    fun a ha => hahead.script a (hl ha)⟩

/-- A run's first step, taken off. -/
theorem run_succ_of_step {M : Host.Core} {s t : M.State} (h : M.step s = .next t) (k : Nat) :
    M.run (k + 1) s = M.run k t := by
  rw [Host.Core.run, h]

/-- With no reset ahead, the unit's turn comes within the schedule: each turn before it is the host's. -/
theorem unitTurn_within_schedule {s : State} (hbusy : s.status.busy = true) (hahead : s.NoResetAhead) :
    ∃ k t, k ≤ s.turns.length ∧ Sys2Proof.core.run k s = .next t ∧
      t.status.busy = true ∧ t.cmd = s.cmd ∧ t.nextTurn = .unit := by
  induction hturns : s.turns generalizing s with
  | nil => exact ⟨0, s, Nat.zero_le _, rfl, hbusy, rfl, by simp [State.nextTurn, hturns, hbusy]⟩
  | cons turn rest ih =>
    have hnext := nextTurn_of_cons hturns
    cases turn with
    | unit => exact ⟨0, s, Nat.zero_le _, rfl, hbusy, rfl, hnext⟩
    | powerOn => exact absurd (hturns ▸ List.mem_cons_self) hahead.turns
    | host =>
      obtain ⟨u, hstep, hbusy_u, hcmd_u, hturns_u, hahead_u⟩ := step_holds_command hbusy hahead hnext
      obtain ⟨k, t, hk, hrun, hbusy_t, hcmd_t, hunit⟩ := ih hbusy_u hahead_u (hturns_u.trans (congrArg _ hturns))
      exact ⟨k + 1, t, Nat.succ_le_succ hk, (run_succ_of_step (M := core) hstep k).trans hrun, hbusy_t,
        hcmd_t.trans hcmd_u, hunit⟩

/-! ### The obligations -/

/-- Settles O10, by induction on the schedule: the host's turns hold the command in flight until the unit's comes. -/
theorem acceptedCommandIsExecuted : Obligations.AcceptedCommandIsExecuted := fun _ hbusy hturns hscript =>
  unitTurn_within_schedule hbusy ⟨hturns, hscript⟩

/-- Settles O16: the access is the soft reset, which leaves DONE and IRQ 0 and keeps BUF by BUSY. -/
theorem softResetValues : Obligations.SoftResetValues := fun s _ ha =>
  ⟨s.softReset, s.bus_of_softResetAccess ha, s.softReset_registersAtReset, rfl, rfl,
    State.softReset_sameBuf_of_idle, State.softReset_unwritten_of_busy⟩

/-- Settles O15: both State.reset and what the power-on turn leaves are `resetWith` an empty BUF. -/
theorem powerOnResetValues : Obligations.PowerOnResetValues :=
  ⟨⟨State.reset.resetWith_registersAtReset [], fun _ => rfl⟩, fun s _ hturns =>
    ⟨s.endTurn.powerOnReset, step_of_powerOnTurn (nextTurn_of_cons hturns), s.endTurn.resetWith_registersAtReset [],
      rfl, fun _ => rfl⟩⟩

end Sys2Proof.Machine
end
